-- ==== Sys2Proof/Word.lean ====
section
/-! DEFINITION. The two widths of the block (00_scope.md R11): the byte, the unit of every stream and buffer,
and the 16-bit word of the length and the countdown. Every value is unsigned. -/

namespace Sys2Proof

/-- A byte, 0 to 255; bit 0 is the least significant (R11). -/
abbrev Byte := BitVec 8

/-- The 16-bit quantities: `LEN`, `REM`, `MAX_LEN` (10_state.md R20, 00_scope.md R9). -/
abbrev Word16 := BitVec 16

end Sys2Proof
end

