-- ==== Sys2Proof/Config.lean ====
section
/-! DEFINITION. The static parameters of the block: the rows of 00_scope.md R9 marked *parameter*. A machine
carries one `Config`, fixed before its first step and changed by no step (70_reset_and_hazards.md R298), so a
statement about every state is a statement about every choice of the parameters. The values at `State.reset` are
in Machine/Params.lean. -/

namespace Sys2Proof

/-- The parameters of 00_scope.md R9. Each field may hold any value of its width. -/
structure Config where
  /-- `MAX_LEN`, the longest legal frame data, 0 to 65535, for both directions (92 D2). -/
  maxLen : Word16
  /-- `TX_TYPE`, the frame type of a transmit request (92 D15). -/
  txType : Byte
  /-- `FRAME_ID`, the frame identifier (92 D15). -/
  frameId : Byte
  /-- `DEST16`, the destination short address: two bytes in emission order, not a number (20_memory.md R54). -/
  dest16 : Byte × Byte
  /-- `TX_RADIUS`, the broadcast radius (92 D15). -/
  txRadius : Byte
  /-- `TX_OPTIONS`, the options byte of a transmit request (92 D15). -/
  txOptions : Byte
deriving DecidableEq, Repr

end Sys2Proof
end

