-- ==== Sys2Proof/Machine/Params.lean ====
section
/-! DEFINITION. The constants of 00_scope.md R9, and the parameter values that `State.reset` carries. -/

namespace Sys2Proof.Params

/-- `START`, the start marker (R9; 92 D1). -/
def start : Byte := 0x7E
/-- `ESC`, the escape marker (R9; 92 D1). -/
def esc : Byte := 0x7D
/-- `XON` (R9; 92 D1). -/
def xon : Byte := 0x11
/-- `XOFF` (R9; 92 D1). -/
def xoff : Byte := 0x13
/-- `ESC_XOR`, what an escaped byte is exclusive-ored with (R9). -/
def escXor : Byte := 0x20
/-- `CKS_TARGET`, what frame data and checksum sum to modulo 256 (R9). -/
def cksTarget : Byte := 0xFF
/-- `RAT_TYPE`, the frame type of a remote-AT request (R9; 92 D16). -/
def ratType : Byte := 0x17
/-- `RAT_OPTION`, "apply changes immediately" (R9). -/
def ratOption : Byte := 0x02

/-- The set `RESERVED` of R9: the four values that are escaped outbound. -/
def reserved (b : Byte) : Bool := b == start || b == esc || b == xon || b == xoff

/-- The parameters carried by `State.reset`. `MAX_LEN` is left open by the spec (92 D2): 256 is the value its
test vectors use. DESIGN CHOICE, unsafe, log entry 4. The other five are the spec's defaults, which it takes
from general knowledge (92 D15). PRESUMED, unsafe, log entry 5. -/
def atReset : Config where
  maxLen := 256
  txType := 0x10
  frameId := 0x01
  dest16 := (0xFF, 0xFE)
  txRadius := 0x00
  txOptions := 0x00

end Sys2Proof.Params
end

