-- ==== Sys2Proof/Syntax.lean ====
section
/-! DEFINITION. The operations of the block as syntax: one constructor of `Instr` per row of
spec/opcode_table.json, their operands, what the host can hand over, and why a descriptor is rejected. -/

namespace Sys2Proof

/-- `PS`, the parser state (10_state.md R22). -/
inductive ParserState where
  /-- `IDLE`: outside any frame. -/
  | idle
  /-- `LEN`: collecting the two length bytes. -/
  | len
  /-- `PAYLOAD`: collecting frame data. -/
  | payload
  /-- `CSUM`: awaiting the checksum byte. -/
  | csum
deriving DecidableEq, Repr

/-- A long address: exactly 8 bytes, element 0 emitted first, never a number (30_encoding.md R98, 20_memory.md
R54). Another width cannot be expressed (10_state.md R37). -/
structure LongAddr where
  a0 : Byte
  a1 : Byte
  a2 : Byte
  a3 : Byte
  a4 : Byte
  a5 : Byte
  a6 : Byte
  a7 : Byte
deriving DecidableEq, Repr

/-- The 2-character command of a `RemoteAt` descriptor: exactly 2 bytes, any values (R98, 92 D18). -/
structure AtCommand where
  c0 : Byte
  c1 : Byte
deriving DecidableEq, Repr

/-- What the selection of an `RX` case looks at besides the raw byte: `PS`, `LHV`, `ESCP` (30_encoding.md R88). -/
structure RxView where
  ps : ParserState
  lhv : Bool
  escp : Bool
deriving DecidableEq, Repr

/-- The operations, one per row of spec/opcode_table.json. `v` is a logical byte, `b` a raw byte. -/
inductive Instr where
  /-- RX_START (42 R152): a raw start marker. -/
  | rxStart
  /-- RX_DROP (42 R154): a byte outside any frame. -/
  | rxDrop (b : Byte)
  /-- RX_ESC (42 R156): an escape marker inside a frame. -/
  | rxEsc
  /-- RX_LEN_HI (42 R160): the first length byte. -/
  | rxLenHi (v : Byte)
  /-- RX_LEN_LO (42 R162): the second length byte. -/
  | rxLenLo (v : Byte)
  /-- RX_DATA (42 R166): one byte of frame data. -/
  | rxData (v : Byte)
  /-- RX_CSUM (42 R170): the checksum byte. -/
  | rxCsum (v : Byte)
  /-- ESC_BYTE.7E (40 R112): escape a logical 0x7E. -/
  | escByte7E
  /-- ESC_BYTE.7D (40 R112): escape a logical 0x7D. -/
  | escByte7D
  /-- ESC_BYTE.11 (40 R112): escape a logical 0x11. -/
  | escByte11
  /-- ESC_BYTE.13 (40 R112): escape a logical 0x13. -/
  | escByte13
  /-- ESC_BYTE.PASS (40 R112): a logical byte that is not reserved. -/
  | escBytePass (o : Byte)
  /-- ESCAPE (40 R114): escape a byte sequence. -/
  | escape (bs : List Byte)
  /-- UNESC_STEP (40 R116): one step of the un-escaper. -/
  | unescStep (e : Bool) (b : Byte)
  /-- UNESCAPE (40 R118): the un-escaper over a raw sequence. -/
  | unescape (e : Bool) (bs : List Byte)
  /-- CKS_GEN (41 R130): the checksum of a frame data. -/
  | cksGen (d : List Byte)
  /-- CKS_CHK (41 R132): test a received checksum. -/
  | cksChk (d : List Byte) (c : Byte)
  /-- FEED (42 R150): consume one raw byte. -/
  | feed (b : Byte)
  /-- FEED_CHUNK (42 R176): feed a chunk. -/
  | feedChunk (bs : List Byte)
  /-- TX_FRAME (43 R202): wrap a frame data. -/
  | txFrame (p : List Byte)
  /-- TX_TRANSMIT (43 R210): encode a transmit request. -/
  | txTransmit (dest : LongAddr) (data : List Byte)
  /-- TX_REMOTE_AT (43 R220): encode a remote-AT request. -/
  | txRemoteAt (dest : LongAddr) (command : AtCommand) (parameter : List Byte)
  /-- RESET (70 R280): write clean Idle. -/
  | reset
deriving DecidableEq, Repr

/-- The operations that no bit pattern selects: the host calls them (30_encoding.md R101). -/
inductive Call where
  | escape (bs : List Byte)
  | unescStep (e : Bool) (b : Byte)
  | unescape (e : Bool) (bs : List Byte)
  | cksGen (d : List Byte)
  | cksChk (d : List Byte) (c : Byte)
  | feed (b : Byte)
  | feedChunk (bs : List Byte)
  | txFrame (p : List Byte)
  | reset
deriving DecidableEq, Repr

/-- One move of the host, and what it hands over (70_reset_and_hazards.md R303, 30_encoding.md R101). The list
of moves still to come stands in the machine's state (DESIGN CHOICE, safe, log entry 1). -/
inductive HostMove where
  /-- the next byte of `IN` (format `W`): its value and the registers select the `RX` case -/
  | raw (b : Byte)
  /-- a logical byte to be escaped (format `E`) -/
  | logical (o : Byte)
  /-- a command descriptor (format `C`): the one-bit kind code, then its fields as bytes in order -/
  | command (kind : BitVec 1) (fields : List Byte)
  /-- a called operation -/
  | call (c : Call)
deriving DecidableEq, Repr

/-- Why a command descriptor is no instruction: a fixed field is too short. Such a descriptor "cannot be
expressed" (10_state.md R37). -/
inductive DecodeError where
  /-- fewer than the 8 bytes of `dest_address` -/
  | shortAddress
  /-- fewer than the 2 bytes of `command` -/
  | shortCommand
deriving DecidableEq, Repr

end Sys2Proof
end

