-- ==== Sys2Proof/WellFormed.lean ====
section
/-! DEFINITION. Which terms of `Instr` are operations of the table. Field widths are fixed by the types; two rows
restrict the value of their byte. -/

namespace Sys2Proof

/-- The value conditions of opcode_table.json: RX_DROP takes a byte that is not `START`, ESC_BYTE.PASS one of the
252 values that are not reserved. -/
def Instr.wellFormed : Instr → Bool
  | .rxDrop b => b != Params.start
  | .escBytePass o => !Params.reserved o
  | _ => true

end Sys2Proof
end

