-- ==== Sys2Proof/Decode.lean ====
section
/-! DEFINITION. From what the host hands over to an operation (30_encoding.md R87, R88, R98, R101), the encoder
back, and the reading of one word of spec/opcode_table.json. -/

namespace Sys2Proof

/-- The three classes of a raw byte (30_encoding.md R87). -/
inductive ByteClass where
  | cStart
  | cEsc
  | cOther
deriving DecidableEq, Repr

/-- R87: the class by value alone; raw `XON` and `XOFF` are ordinary (92 D8, log entry 18). -/
def byteClass (b : Byte) : ByteClass :=
  if b = Params.start then .cStart else if b = Params.esc then .cEsc else .cOther

/-- The un-escaped operand of a raw byte (30_encoding.md R85, 42 R158). With a pending escape the exclusive-or
is taken whatever the byte (92 D6, log entry 17). -/
def logicalByte (escp : Bool) (b : Byte) : Byte := if escp then b ^^^ Params.escXor else b

/-- R88, the operation map: the first matching row. Rows 1 and 2 come before the escape is looked at. The last
alternative of the table's rows 4 to 7 never has `PS` = `IDLE`: row 2 has taken it. -/
def decodeRaw (view : RxView) (b : Byte) : Instr :=
  match byteClass b with
  | .cStart => .rxStart
  | cls =>
    if view.ps = .idle then .rxDrop b
    else if cls = .cEsc ∧ view.escp = false then .rxEsc
    else
      let v := logicalByte view.escp b
      match view.ps, view.lhv with
      | .idle, _ => .rxDrop b
      | .len, false => .rxLenHi v
      | .len, true => .rxLenLo v
      | .payload, _ => .rxData v
      | .csum, _ => .rxCsum v

/-- The rows of format `E`: which of the five cases of ESC_BYTE takes the logical byte (40 R112). -/
def decodeLogical (o : Byte) : Instr :=
  if o = Params.start then .escByte7E
  else if o = Params.esc then .escByte7D
  else if o = Params.xon then .escByte11
  else if o = Params.xoff then .escByte13
  else .escBytePass o

/-- Eight bytes of `dest_address` and the rest (30_encoding.md R98). -/
def takeAddr : List Byte → Except DecodeError (LongAddr × List Byte)
  | a0 :: a1 :: a2 :: a3 :: a4 :: a5 :: a6 :: a7 :: rest => .ok (⟨a0, a1, a2, a3, a4, a5, a6, a7⟩, rest)
  | _ => .error .shortAddress

/-- Two bytes of `command` and the rest (30_encoding.md R98). -/
def takeCommand : List Byte → Except DecodeError (AtCommand × List Byte)
  | c0 :: c1 :: rest => .ok (⟨c0, c1⟩, rest)
  | _ => .error .shortCommand

/-- Format `C` (30_encoding.md R98): kind 0 is `Transmit`, kind 1 `RemoteAt`; the last field takes the rest. -/
def decodeCommand (kind : BitVec 1) (fields : List Byte) : Except DecodeError Instr :=
  match takeAddr fields with
  | .error e => .error e
  | .ok (dest, rest) =>
    if kind = 0 then .ok (.txTransmit dest rest)
    else
      match takeCommand rest with
      | .error e => .error e
      | .ok (command, parameter) => .ok (.txRemoteAt dest command parameter)

/-- A called operation (30_encoding.md R101). -/
def decodeCall : Call → Instr
  | .escape bs => .escape bs
  | .unescStep e b => .unescStep e b
  | .unescape e bs => .unescape e bs
  | .cksGen d => .cksGen d
  | .cksChk d c => .cksChk d c
  | .feed b => .feed b
  | .feedChunk bs => .feedChunk bs
  | .txFrame p => .txFrame p
  | .reset => .reset

/-- The decoder: total on every move of the host, rejecting by name only a descriptor whose fixed fields are too
short (log entry 11). -/
def decode (view : RxView) : HostMove → Except DecodeError Instr
  | .raw b => .ok (decodeRaw view b)
  | .logical o => .ok (decodeLogical o)
  | .command kind fields => decodeCommand kind fields
  | .call c => .ok (decodeCall c)

/-! The encoder. -/

/-- The address as bytes, element 0 first (20_memory.md R54). -/
def LongAddr.bytes (a : LongAddr) : List Byte := [a.a0, a.a1, a.a2, a.a3, a.a4, a.a5, a.a6, a.a7]

/-- The command as bytes, element 0 first. -/
def AtCommand.bytes (c : AtCommand) : List Byte := [c.c0, c.c1]

/-- What the host hands over for the operation to run. For the four cases that take a logical byte it is the raw
byte which that logical byte arrives as: exclusive-ored when an escape is pending (`logicalByte` is its own
inverse). -/
def encode (view : RxView) : Instr → HostMove
  | .rxStart => .raw Params.start
  | .rxDrop b => .raw b
  | .rxEsc => .raw Params.esc
  | .rxLenHi v => .raw (logicalByte view.escp v)
  | .rxLenLo v => .raw (logicalByte view.escp v)
  | .rxData v => .raw (logicalByte view.escp v)
  | .rxCsum v => .raw (logicalByte view.escp v)
  | .escByte7E => .logical Params.start
  | .escByte7D => .logical Params.esc
  | .escByte11 => .logical Params.xon
  | .escByte13 => .logical Params.xoff
  | .escBytePass o => .logical o
  | .escape bs => .call (.escape bs)
  | .unescStep e b => .call (.unescStep e b)
  | .unescape e bs => .call (.unescape e bs)
  | .cksGen d => .call (.cksGen d)
  | .cksChk d c => .call (.cksChk d c)
  | .feed b => .call (.feed b)
  | .feedChunk bs => .call (.feedChunk bs)
  | .txFrame p => .call (.txFrame p)
  | .txTransmit dest data => .command 0 (dest.bytes ++ data)
  | .txRemoteAt dest command parameter => .command 1 (dest.bytes ++ (command.bytes ++ parameter))
  | .reset => .call .reset

/-- A raw byte that hands its logical byte to the current state: not `START`, and not an `ESC` that would only be
remembered (30_encoding.md R88, rows 4 to 7). -/
def givesLogical (view : RxView) (b : Byte) : Bool :=
  b != Params.start && (view.escp || b != Params.esc)

/-- The state conditions of the table ("state_condition"; 30_encoding.md R88): which of its rows the registers
allow. Rows not selected by a raw byte are allowed in every state. -/
def Instr.selectable (view : RxView) : Instr → Bool
  | .rxDrop _ => view.ps == .idle
  | .rxEsc => view.ps != .idle && !view.escp
  | .rxLenHi v => view.ps == .len && !view.lhv && givesLogical view (logicalByte view.escp v)
  | .rxLenLo v => view.ps == .len && view.lhv && givesLogical view (logicalByte view.escp v)
  | .rxData v => view.ps == .payload && givesLogical view (logicalByte view.escp v)
  | .rxCsum v => view.ps == .csum && givesLogical view (logicalByte view.escp v)
  | _ => true

/-! One word of spec/opcode_table.json (log entry 12). -/

/-- Byte `k` of the word `w` of `nbits` bits, the table's bit 0 first; above `nbits` every bit is 0. -/
def tableByte (nbits w k : Nat) : Byte := BitVec.ofNat 8 (w % 2 ^ nbits / 256 ^ k)

/-- The descriptor fields that follow the kind code in the word: the fixed fields of the longest descriptor, and
as many data bytes as the word has beyond them. -/
def tableFields (nbits w fixed : Nat) : List Byte :=
  (List.range (max fixed ((nbits + 7) / 8 - 1))).map fun k => tableByte nbits w (k + 1)

/-- What the host hands over for a word: the first row of the table with a bit pattern that matches it (RX_START,
RX_ESC, ESC_BYTE.11, ESC_BYTE.13, then the kind codes 0 and 1), and for any other word the raw byte. -/
def tableMove (nbits w : Nat) : Option HostMove :=
  if nbits = 0 then none
  else
    let b := tableByte nbits w 0
    some <|
      if b = Params.start ∨ b = Params.esc then .raw b
      else if b = Params.xon ∨ b = Params.xoff then .logical b
      else if b = 0 then .command 0 (tableFields nbits w 8)
      else if b = 1 then .command 1 (tableFields nbits w 10)
      else .raw b

/-- The registers a table word is read in: the row RX_ESC needs a frame in progress and no pending escape, every
other row is read in clean Idle, the state after reset. -/
def tableView : HostMove → RxView
  | .raw b => if b = Params.esc then ⟨.len, false, false⟩ else ⟨.idle, false, false⟩
  | _ => ⟨.idle, false, false⟩

/-- The operation the decoder reads from a word of the table. -/
def decodeTableWord (nbits w : Nat) : Option Instr :=
  match tableMove nbits w with
  | none => none
  | some m =>
    match decode (tableView m) m with
    | .ok i => some i
    | .error _ => none

end Sys2Proof
end

