-- ==== Sys2Proof/Machine/State.lean ====
section
/-! DEFINITION. The machine's state as plain data (10_state.md): the seven `RX` registers, the outbound stream, the
outputs of the last step, the static parameters and the host's moves still to come; the reasons a step stops; the
state after reset. -/

namespace Sys2Proof.Machine

/-- The frame buffer `BUF`: the bytes at index 0, 1, ... up to its length; nothing exists beyond (10_state.md R28,
20_memory.md R52, 93 U8). DESIGN CHOICE of form, safe, log entry 13. -/
abbrev Memory := List Byte

/-- The three reasons of `Invalid` (10_state.md R34, 60_exceptions.md R242). -/
inductive Reason where
  | checksumMismatch
  | lengthOverrun
  | unexpectedStart
deriving DecidableEq, Repr

/-- `RES`, the frame result of an `RX` step (10_state.md R34). -/
inductive FrameResult where
  | incomplete
  | complete (f : List Byte)
  | invalid (why : Reason)
deriving DecidableEq, Repr

/-- The two outputs of an `RX` step: `RES` and `WARN` (10_state.md R34, R35). -/
structure RxOut where
  res : FrameResult
  warn : Bool
deriving DecidableEq, Repr

/-- A token of the un-escaper (40_escape.md R116). -/
inductive Token where
  | tStart
  | tNone
  | tByte (v : Byte)
deriving DecidableEq, Repr

/-- The result of CKS_CHK (41_checksum.md R132). -/
inductive CksResult where
  | valid
  | mismatch
deriving DecidableEq, Repr

/-- `TXS`, the status of a `TX` step (10_state.md R36). -/
inductive TxStatus where
  | ok
  | refusedTooLong
deriving DecidableEq, Repr

/-- What the last step handed to the host; every step overwrites it, since no output is held (10_state.md R34 to
R36). DESIGN CHOICE, safe, log entry 2. -/
inductive StepOut where
  /-- no output: before the first step, after RESET, after a step in which the host did nothing -/
  | none
  /-- `RES` and `WARN` of one `RX` step -/
  | rx (o : RxOut)
  /-- the per-byte outputs of a chunk, in order (42 R176) -/
  | rxChunk (os : List RxOut)
  /-- `TXS` and `WIRE` of one `TX` step -/
  | tx (status : TxStatus) (wire : List Byte)
  /-- the raw bytes of ESC_BYTE or ESCAPE -/
  | bytes (bs : List Byte)
  /-- the next flag and token of UNESC_STEP -/
  | unesc (flag : Bool) (t : Token)
  /-- the tokens and final flag of UNESCAPE -/
  | tokens (ts : List Token) (flag : Bool)
  /-- the byte of CKS_GEN -/
  | checksum (c : Byte)
  /-- the verdict of CKS_CHK -/
  | check (r : CksResult)
deriving DecidableEq, Repr

/-- The seven registers of agent `RX`: the complete architectural state of the block (10_state.md R20). -/
structure Rx where
  /-- `PS`, the parser state (R22) -/
  ps : ParserState
  /-- `LHV`, length high byte valid (R24) -/
  lhv : Bool
  /-- `LEN`, the declared length (R24) -/
  len : Word16
  /-- `REM`, the frame-data bytes still to collect (R25) -/
  rem : Word16
  /-- `SUM`, the running sum modulo 256 (R26) -/
  sum : Byte
  /-- `ESCP`, escape pending (R27) -/
  escp : Bool
  /-- `BUF`, the frame buffer (R28) -/
  buf : Memory
deriving DecidableEq, Repr

/-- Clean Idle (10_state.md R33), the value of every register after reset. -/
def Rx.cleanIdle : Rx where
  ps := .idle
  lhv := false
  len := 0
  rem := 0
  sum := 0
  escp := false
  buf := []

/-- The machine: agent `RX`'s registers, and around them what the host sees and supplies. `TX` has no state
(10_state.md R38). -/
structure State where
  /-- the static parameters (00_scope.md R9); no step changes them (70 R298) -/
  cfg : Config
  /-- the registers of `RX` -/
  rx : Rx
  /-- `OUT`: every byte of every accepted frame, in emission order (20_memory.md R50, R53, R62); log entry 3 -/
  outStream : List Byte
  /-- what the last step handed to the host; log entry 2 -/
  out : StepOut
  /-- the host's moves still to come, the next one first; `IN` is its raw bytes; log entry 1 -/
  pending : List HostMove
deriving DecidableEq, Repr

/-- The state after reset for given parameters (10_state.md R33, 70 R282): clean Idle, no output, nothing emitted,
no host move yet. -/
def State.resetWith (cfg : Config) : State where
  cfg := cfg
  rx := Rx.cleanIdle
  outStream := []
  out := .none
  pending := []

/-- The state after reset with the parameters of Machine/Params.lean (log entries 4 and 5). -/
def State.reset : State := State.resetWith Params.atReset

/-- The block has no fault of any kind: "none of the three framing errors is a fault", `FEED` is total, no access
is out of bounds (60_exceptions.md R260, 20_memory.md R52, R59). The type is empty: nobody raises one. -/
inductive Fault where
deriving DecidableEq, Repr

/-- Why a step gives no next state. -/
inductive Refusal where
  /-- Raised by an arm of `exec` whose instruction has no meaning in the model; there is no such arm. Safe. -/
  | notModelled (mnemonic : String)
  /-- Raised by `step` when the host's next move is a command descriptor whose fixed fields are too short: the spec
  says it cannot be expressed (10_state.md R37, 70 R303). Safe, log entry 11. -/
  | illSizedCommand (why : DecodeError)
deriving DecidableEq, Repr

end Sys2Proof.Machine
end

