-- ==== Sys2Proof/Machine/Ops.lean ====
section
/-! DEFINITION. The named operations over the registers, the buffer and the outputs (00_scope.md R12), the one
entry of a framing error (60_exceptions.md R254), and the numeric codes of 10_state.md R39. -/

namespace Sys2Proof.Machine

/-! Registers. -/

/-- `clear()` (00_scope.md R12, 10_state.md R33): the clean-idle value to every `RX` register. -/
def Rx.clear (r : Rx) : Rx :=
  { r with ps := .idle, lhv := false, len := 0, rem := 0, sum := 0, escp := false, buf := [] }

/-- The registers at the beginning of a frame: cleared, then `PS <- LEN` (42 R152). -/
def Rx.beginFrame (r : Rx) : Rx := { r.clear with ps := .len }

/-- What the selection of an `RX` case reads (30_encoding.md R88). -/
def Rx.view (r : Rx) : RxView := ⟨r.ps, r.lhv, r.escp⟩

/-! The frame buffer (20_memory.md R52). -/

/-- `BUF <- BUF ++ [v]`, the write `MemWrite(|BUF|, 1, v)`: the only write there is. -/
def Memory.append (m : Memory) (v : Byte) : Memory := m ++ [v]

/-- `MemRead(addr, n)` (00_scope.md R12); the only use is the whole-buffer read of RX_CSUM. -/
def Memory.read (m : Memory) (addr n : Nat) : List Byte := (m.drop addr).take n

/-- One byte of the buffer; nothing exists at or beyond its length (20_memory.md R52). -/
def Memory.byteAt (m : Memory) (addr : Nat) : Option Byte := m[addr]?

/-- The buffer as (address, byte) cells from the given address on, addresses rising one by one. -/
def Memory.cellsFrom (addr : Nat) : Memory → List Host.Cell
  | [] => []
  | b :: m => (addr, b) :: Memory.cellsFrom (addr + 1) m

/-- The buffer as (address, byte) cells from index 0. -/
def Memory.cells (m : Memory) : List Host.Cell := Memory.cellsFrom 0 m

/-- The buffer's form: at most `MAX_LEN` bytes (10_state.md R28, I6 of R30). A sequence has one form only, so equal
buffers are equal data. -/
abbrev Memory.wf (maxLen : Word16) (m : Memory) : Prop := m.length ≤ maxLen.toNat

/-! Outputs. -/

/-- `out(RES, WARN)` of one `RX` step, with the registers it leaves (10_state.md R34, R35). -/
def State.emitRx (o : Rx × RxOut) (s : State) : State := { s with rx := o.1, out := .rx o.2 }

/-- The list of per-byte outputs of a chunk, with the registers it leaves (42 R176). -/
def State.emitChunk (o : Rx × List RxOut) (s : State) : State := { s with rx := o.1, out := .rxChunk o.2 }

/-- The result of a called function: it reads and writes no register. -/
def State.emit (o : StepOut) (s : State) : State := { s with out := o }

/-- `TXS` and `WIRE` of one `TX` step (10_state.md R36); an accepted frame is appended to `OUT` whole
(20_memory.md R53), a refused one leaves `OUT` alone (43 R204). -/
def State.emitFrame (o : TxStatus × List Byte) (s : State) : State :=
  match o.1 with
  | .ok => { s with outStream := s.outStream ++ o.2, out := .tx .ok o.2 }
  | .refusedTooLong => { s with out := .tx .refusedTooLong [] }

/-- A step in which the host makes no move: nothing changes but that the last outputs are no longer there
(20_memory.md R67, 10_state.md R34). DESIGN CHOICE, safe, log entry 10. -/
def State.quiet (s : State) : State := s.emit .none

/-! Taking an exception. -/

/-- `WARN` of each reason (60_exceptions.md R242; 92 D9, log entry 19). -/
def Reason.warn : Reason → Bool
  | .checksumMismatch => false
  | .lengthOverrun => false
  | .unexpectedStart => true

/-- `raise <Reason>`: the one entry of all three framing errors (60_exceptions.md R254): nothing is saved, `RES`
carries the reason, every register is cleared, and `PS` becomes `LEN` for `UnexpectedStart` only. There is no
return from it (R256). -/
def Rx.raise (why : Reason) (r : Rx) : Rx × RxOut :=
  match why with
  | .unexpectedStart => (r.beginFrame, ⟨.invalid why, why.warn⟩)
  | _ => (r.clear, ⟨.invalid why, why.warn⟩)

/-! Numeric codes (10_state.md R39). -/

/-- The code of `PS`. -/
def psCode : ParserState → BitVec 2
  | .idle => 0
  | .len => 1
  | .payload => 2
  | .csum => 3

/-- The code of the kind of `RES`. -/
def resKindCode : FrameResult → BitVec 2
  | .incomplete => 0
  | .complete _ => 1
  | .invalid _ => 2

/-- The code of a reason of `Invalid`. -/
def reasonCode : Reason → BitVec 2
  | .checksumMismatch => 1
  | .lengthOverrun => 2
  | .unexpectedStart => 3

/-- The code of `TXS`. -/
def txsCode : TxStatus → BitVec 1
  | .ok => 0
  | .refusedTooLong => 1

end Sys2Proof.Machine
end

