-- ==== Sys2Proof/Machine/Operands.lean ====
section
/-! DEFINITION. The operand forms: the length assembled from two bytes and cut into two bytes (30_encoding.md R84,
20_memory.md R54). The logical byte (R85) is `logicalByte` of Decode.lean. -/

namespace Sys2Proof.Machine

/-- `LEN[15:8] <- v`: the other bits stay (00_scope.md R12, 42 R160). -/
def lenWithHigh (len : Word16) (v : Byte) : Word16 := v ++ len.extractLsb' 0 8

/-- `{LEN[15:8], v}`, the big-endian 16-bit length (30_encoding.md R84, 42 R162). -/
def lenWithLow (len : Word16) (v : Byte) : Word16 := len.extractLsb' 8 8 ++ v

/-- `n[15:8]` of a byte count (43 R202). -/
def lengthHi (n : Nat) : Byte := BitVec.ofNat 8 (n / 256)

/-- `n[7:0]` of a byte count (43 R202). -/
def lengthLo (n : Nat) : Byte := BitVec.ofNat 8 n

end Sys2Proof.Machine
end

