-- ==== Sys2Proof/Machine/Flags.lean ====
section
/-! DEFINITION. The flag and sum computations: the escape flag with its token (40_escape.md R116), the running sum
and the checksum test (41_checksum.md R134). -/

namespace Sys2Proof.Machine

/-- UNESC_STEP (40_escape.md R116): the next flag and the token. A raw `START` wins over a pending escape (92 D5,
log entry 16); a pending escape is applied before the byte is classed as `ESC` (92 D6, log entry 17). -/
def unescapeStep (e : Bool) (b : Byte) : Bool × Token :=
  if b = Params.start then (false, .tStart)
  else if e = false ∧ b = Params.esc then (true, .tNone)
  else (false, .tByte (logicalByte e b))

/-- `SUM <- (SUM + v) mod 256` (41_checksum.md R134). -/
def sumStep (sum v : Byte) : Byte := sum + v

/-- The checksum test on the running sum: `(SUM + v) mod 256 == 0xFF` (41_checksum.md R134, 42 R170). -/
def sumOk (sum v : Byte) : Bool := sum + v == Params.cksTarget

end Sys2Proof.Machine
end

