-- ==== Sys2Proof/Machine/Checksum.lean ====
section
/-! DEFINITION. The checksum generator and checker (41_checksum.md): an 8-bit additive checksum (90 C1) over the
whole un-escaped frame data, frame type included (90 C2). -/

namespace Sys2Proof.Machine

/-- The sum of the bytes as a natural number (R130). -/
def byteSum : List Byte → Nat
  | [] => 0
  | b :: d => b.toNat + byteSum d

/-- CKS_GEN (R130): `0xFF - (sum mod 256)`; the subtraction never borrows. -/
def checksumOf (d : List Byte) : Byte := Params.cksTarget - BitVec.ofNat 8 (byteSum d % 256)

/-- CKS_CHK (R132): valid iff `(sum + c) mod 256 == 0xFF`. -/
def checkChecksum (d : List Byte) (c : Byte) : CksResult :=
  if (byteSum d + c.toNat) % 256 = Params.cksTarget.toNat then .valid else .mismatch

/-- CKS_GEN (R130). -/
def execCksGen (d : List Byte) (s : State) : Host.Outcome State Fault Refusal :=
  .next (s.emit (.checksum (checksumOf d)))

/-- CKS_CHK (R132). -/
def execCksChk (d : List Byte) (c : Byte) (s : State) : Host.Outcome State Fault Refusal :=
  .next (s.emit (.check (checkChecksum d c)))

end Sys2Proof.Machine
end

