-- ==== Sys2Proof/Machine/Escape.lean ====
section
/-! DEFINITION. The byte escape processor (40_escape.md): ESC_BYTE, ESCAPE, UNESC_STEP, UNESCAPE. As called by the
host they are functions of their operands alone; the register `ESCP` is written only when `RX` applies the
un-escape step to a raw byte (R116, 10_state.md R21, R27; log entry 8). -/

namespace Sys2Proof.Machine

/-- ESC_BYTE (R112). -/
def escByte (o : Byte) : List Byte :=
  if Params.reserved o then [Params.esc, o ^^^ Params.escXor] else [o]

/-- ESCAPE (R114). -/
def escapeBytes : List Byte → List Byte
  | [] => []
  | o :: bs => escByte o ++ escapeBytes bs

/-- A token other than `T_NONE` is put in front of the tokens that follow (R118). -/
def Token.consTo (t : Token) (ts : List Token) : List Token :=
  match t with
  | .tNone => ts
  | t => t :: ts

/-- UNESCAPE (R118): the tokens other than `T_NONE`, and the final flag. -/
def unescapeTokens (e : Bool) : List Byte → List Token × Bool
  | [] => ([], e)
  | b :: bs =>
    let st := unescapeStep e b
    let rest := unescapeTokens st.1 bs
    (st.2.consTo rest.1, rest.2)

/-- The bytes of a token sequence with no `T_START` in it. -/
def tokenBytes : List Token → Option (List Byte)
  | [] => some []
  | .tByte v :: ts =>
    match tokenBytes ts with
    | some vs => some (v :: vs)
    | none => none
  | .tStart :: _ => none
  | .tNone :: ts => tokenBytes ts

/-- `unescape_bytes(s)` (R118): defined when there is no `T_START` and the final flag is 0. -/
def unescapedBytes (bs : List Byte) : Option (List Byte) :=
  match unescapeTokens false bs with
  | (ts, false) => tokenBytes ts
  | (_, true) => none

/-- ESC_BYTE.7E (R112): `7D 5E`. -/
def execEscByte7E (s : State) : Host.Outcome State Fault Refusal := .next (s.emit (.bytes (escByte Params.start)))

/-- ESC_BYTE.7D (R112): `7D 5D`. -/
def execEscByte7D (s : State) : Host.Outcome State Fault Refusal := .next (s.emit (.bytes (escByte Params.esc)))

/-- ESC_BYTE.11 (R112): `7D 31`. -/
def execEscByte11 (s : State) : Host.Outcome State Fault Refusal := .next (s.emit (.bytes (escByte Params.xon)))

/-- ESC_BYTE.13 (R112): `7D 33`. -/
def execEscByte13 (s : State) : Host.Outcome State Fault Refusal := .next (s.emit (.bytes (escByte Params.xoff)))

/-- ESC_BYTE.PASS (R112): the byte unchanged. The row takes the 252 values that are not reserved; the decoder
gives it no other, and its effect is the one the row names. -/
def execEscBytePass (o : Byte) (s : State) : Host.Outcome State Fault Refusal := .next (s.emit (.bytes [o]))

/-- ESCAPE (R114). -/
def execEscape (bs : List Byte) (s : State) : Host.Outcome State Fault Refusal :=
  .next (s.emit (.bytes (escapeBytes bs)))

/-- UNESC_STEP (R116). -/
def execUnescStep (e : Bool) (b : Byte) (s : State) : Host.Outcome State Fault Refusal :=
  .next (s.emit (.unesc (unescapeStep e b).1 (unescapeStep e b).2))

/-- UNESCAPE (R118). -/
def execUnescape (e : Bool) (bs : List Byte) (s : State) : Host.Outcome State Fault Refusal :=
  .next (s.emit (.tokens (unescapeTokens e bs).1 (unescapeTokens e bs).2))

end Sys2Proof.Machine
end

