-- ==== Sys2Proof/Machine/Builder.lean ====
section
/-! DEFINITION. The command frame builder (43_tx_builder.md): TX_FRAME, TX_TRANSMIT, TX_REMOTE_AT. It reads the
parameters and its operands, no register (R200, 10_state.md R38). -/

namespace Sys2Proof.Machine

/-- What is escaped after `START`: the big-endian length of the un-escaped frame data, the data, the checksum
(R202). -/
def frameBody (p : List Byte) : List Byte :=
  [lengthHi p.length, lengthLo p.length] ++ p ++ [checksumOf p]

/-- `FRAME(p)` (30_encoding.md R100): `START` and the escaped body. -/
def wireFrame (p : List Byte) : List Byte := Params.start :: escapeBytes (frameBody p)

/-- TX_FRAME (R202), with the refusal of R204 (92 D17, log entry 22). -/
def txFrame (cfg : Config) (p : List Byte) : TxStatus × List Byte :=
  if cfg.maxLen.toNat < p.length then (.refusedTooLong, []) else (.ok, wireFrame p)

/-- The frame data of a transmit request (R210, R212). The offsets are PRESUMED, log entry 6. -/
def transmitData (cfg : Config) (dest : LongAddr) (data : List Byte) : List Byte :=
  [cfg.txType, cfg.frameId] ++ dest.bytes ++ [cfg.dest16.1, cfg.dest16.2] ++ [cfg.txRadius, cfg.txOptions] ++ data

/-- The frame data of a remote-AT request (R220, R222). The offsets are PRESUMED, log entry 6. -/
def remoteAtData (cfg : Config) (dest : LongAddr) (command : AtCommand) (parameter : List Byte) : List Byte :=
  [Params.ratType, cfg.frameId] ++ dest.bytes ++ [cfg.dest16.1, cfg.dest16.2] ++ [Params.ratOption] ++ command.bytes
    ++ parameter

/-- TX_FRAME (R202). -/
def execTxFrame (p : List Byte) (s : State) : Host.Outcome State Fault Refusal := .next (s.emitFrame (txFrame s.cfg p))

/-- TX_TRANSMIT (R210). -/
def execTxTransmit (dest : LongAddr) (data : List Byte) (s : State) : Host.Outcome State Fault Refusal :=
  .next (s.emitFrame (txFrame s.cfg (transmitData s.cfg dest data)))

/-- TX_REMOTE_AT (R220). -/
def execTxRemoteAt (dest : LongAddr) (command : AtCommand) (parameter : List Byte) (s : State) :
    Host.Outcome State Fault Refusal :=
  .next (s.emitFrame (txFrame s.cfg (remoteAtData s.cfg dest command parameter)))

end Sys2Proof.Machine
end

