-- ==== Sys2Proof/Machine/HostReset.lean ====
section
/-! DEFINITION. The operation RESET (70_reset_and_hazards.md R280): silent, on the registers of `RX` alone; `OUT`,
`TX` and the parameters are not concerned (R282; 92 D11, log entry 21). -/

namespace Sys2Proof.Machine

/-- RESET (R280). -/
def execReset (s : State) : Host.Outcome State Fault Refusal := .next (State.emit .none { s with rx := s.rx.clear })

end Sys2Proof.Machine
end

