-- ==== Sys2Proof/Machine/Receive.lean ====
section
/-! DEFINITION. The frame synchronizer, length validator and checksum check (42_rx_synchronizer.md): the seven
cases on the registers, FEED, FEED_CHUNK. -/

namespace Sys2Proof.Machine

/-- RX_START (R152). A frame is in progress iff `PS` is not `IDLE` (92 D4, log entry 15). -/
def Rx.startMarker (r : Rx) : Rx × RxOut :=
  if r.ps = .idle then (r.beginFrame, ⟨.incomplete, false⟩) else r.raise .unexpectedStart

/-- RX_DROP (R154): no register changes (92 D7, log entry 20). -/
def Rx.drop (r : Rx) : Rx × RxOut := (r, ⟨.incomplete, false⟩)

/-- RX_ESC (R156). -/
def Rx.escapeMarker (r : Rx) : Rx × RxOut := ({ r with escp := true }, ⟨.incomplete, false⟩)

/-- RX_LEN_HI (R160); `ESCP` is cleared (R158). -/
def Rx.lengthHigh (v : Byte) (r : Rx) : Rx × RxOut :=
  ({ r with len := lenWithHigh r.len v, lhv := true, escp := false }, ⟨.incomplete, false⟩)

/-- RX_LEN_LO (R162), the frame-length validator; `ESCP` is cleared (R158). What an overrun is: 92 D3, log entry
14. -/
def Rx.lengthLow (maxLen : Word16) (v : Byte) (r : Rx) : Rx × RxOut :=
  let l := lenWithLow r.len v
  if maxLen.toNat < l.toNat then r.raise .lengthOverrun
  else if l = 0 then
    ({ r with len := 0, lhv := false, rem := 0, ps := .csum, escp := false }, ⟨.incomplete, false⟩)
  else
    ({ r with len := l, lhv := false, rem := l, ps := .payload, escp := false }, ⟨.incomplete, false⟩)

/-- RX_DATA (R166); `ESCP` is cleared (R158). -/
def Rx.dataByte (v : Byte) (r : Rx) : Rx × RxOut :=
  ({ r with
      buf := r.buf.append v
      sum := sumStep r.sum v
      rem := r.rem - 1
      ps := if r.rem - 1 = 0 then .csum else r.ps
      escp := false },
    ⟨.incomplete, false⟩)

/-- RX_CSUM (R170): the whole buffer is delivered, or the mismatch reported; clean Idle in both cases. -/
def Rx.checksumByte (v : Byte) (r : Rx) : Rx × RxOut :=
  if sumOk r.sum v then (r.clear, ⟨.complete (r.buf.read 0 r.buf.length), false⟩) else r.raise .checksumMismatch

/-- FEED (R150): the dispatch on the raw byte, `PS`, `ESCP` and `LHV`, in the order R150 tests them. The match has
no `IDLE` row of its own in the rule, since `IDLE` has been tested before it. -/
def Rx.feed (maxLen : Word16) (b : Byte) (r : Rx) : Rx × RxOut :=
  if b = Params.start then r.startMarker
  else if r.ps = .idle then r.drop
  else if r.escp = false ∧ b = Params.esc then r.escapeMarker
  else
    let v := logicalByte r.escp b
    match r.ps, r.lhv with
    | .idle, _ => r.drop
    | .len, false => r.lengthHigh v
    | .len, true => r.lengthLow maxLen v
    | .payload, _ => r.dataByte v
    | .csum, _ => r.checksumByte v

/-- FEED_CHUNK (R176): FEED of each byte in order, from the registers the one before left. -/
def Rx.feedBytes (maxLen : Word16) : List Byte → Rx → Rx × List RxOut
  | [], r => (r, [])
  | b :: bs, r =>
    let o := r.feed maxLen b
    let rest := Rx.feedBytes maxLen bs o.1
    (rest.1, o.2 :: rest.2)

/-- RX_START (R152). -/
def execRxStart (s : State) : Host.Outcome State Fault Refusal := .next (s.emitRx s.rx.startMarker)

/-- RX_DROP (R154): the byte is discarded. -/
def execRxDrop (_b : Byte) (s : State) : Host.Outcome State Fault Refusal := .next (s.emitRx s.rx.drop)

/-- RX_ESC (R156). -/
def execRxEsc (s : State) : Host.Outcome State Fault Refusal := .next (s.emitRx s.rx.escapeMarker)

/-- RX_LEN_HI (R160). -/
def execRxLenHi (v : Byte) (s : State) : Host.Outcome State Fault Refusal := .next (s.emitRx (s.rx.lengthHigh v))

/-- RX_LEN_LO (R162). -/
def execRxLenLo (v : Byte) (s : State) : Host.Outcome State Fault Refusal :=
  .next (s.emitRx (s.rx.lengthLow s.cfg.maxLen v))

/-- RX_DATA (R166). -/
def execRxData (v : Byte) (s : State) : Host.Outcome State Fault Refusal := .next (s.emitRx (s.rx.dataByte v))

/-- RX_CSUM (R170). -/
def execRxCsum (v : Byte) (s : State) : Host.Outcome State Fault Refusal := .next (s.emitRx (s.rx.checksumByte v))

/-- FEED (R150). -/
def execFeed (b : Byte) (s : State) : Host.Outcome State Fault Refusal := .next (s.emitRx (s.rx.feed s.cfg.maxLen b))

/-- FEED_CHUNK (R176). -/
def execFeedChunk (bs : List Byte) (s : State) : Host.Outcome State Fault Refusal :=
  .next (s.emitChunk (Rx.feedBytes s.cfg.maxLen bs s.rx))

end Sys2Proof.Machine
end

