-- ==== Sys2Proof/Machine/Dispatch.lean ====
section
/-! DEFINITION. One arm per operation of spec/opcode_table.json, in the table's order. -/

namespace Sys2Proof.Machine

def exec (i : Instr) (s : State) : Host.Outcome State Fault Refusal :=
  match i with
  | .rxStart => Sys2Proof.Machine.execRxStart s
  | .rxDrop b => Sys2Proof.Machine.execRxDrop b s
  | .rxEsc => Sys2Proof.Machine.execRxEsc s
  | .rxLenHi v => Sys2Proof.Machine.execRxLenHi v s
  | .rxLenLo v => Sys2Proof.Machine.execRxLenLo v s
  | .rxData v => Sys2Proof.Machine.execRxData v s
  | .rxCsum v => Sys2Proof.Machine.execRxCsum v s
  | .escByte7E => Sys2Proof.Machine.execEscByte7E s
  | .escByte7D => Sys2Proof.Machine.execEscByte7D s
  | .escByte11 => Sys2Proof.Machine.execEscByte11 s
  | .escByte13 => Sys2Proof.Machine.execEscByte13 s
  | .escBytePass o => Sys2Proof.Machine.execEscBytePass o s
  | .escape bs => Sys2Proof.Machine.execEscape bs s
  | .unescStep e b => Sys2Proof.Machine.execUnescStep e b s
  | .unescape e bs => Sys2Proof.Machine.execUnescape e bs s
  | .cksGen d => Sys2Proof.Machine.execCksGen d s
  | .cksChk d c => Sys2Proof.Machine.execCksChk d c s
  | .feed b => Sys2Proof.Machine.execFeed b s
  | .feedChunk bs => Sys2Proof.Machine.execFeedChunk bs s
  | .txFrame p => Sys2Proof.Machine.execTxFrame p s
  | .txTransmit dest data => Sys2Proof.Machine.execTxTransmit dest data s
  | .txRemoteAt dest command parameter => Sys2Proof.Machine.execTxRemoteAt dest command parameter s
  | .reset => Sys2Proof.Machine.execReset s

end Sys2Proof.Machine
end

