-- ==== Sys2Proof/Machine/Fetch.lean ====
section
/-! DEFINITION. Where a step takes its next operation from: the host's next move, read in the registers of the
moment (30_encoding.md R88, R101). -/

namespace Sys2Proof.Machine

/-- The host's next move and the state with it taken; a byte of `IN` is read once (20_memory.md R51). -/
def State.fetch (s : State) : Option (HostMove × State) :=
  match s.pending with
  | [] => none
  | m :: rest => some (m, { s with pending := rest })

/-- Registers in which a move reads as the table's word does: left alone where they already read it so, otherwise
clean Idle, or a frame just begun for the one row that needs a frame in progress (log entry 12). -/
def Rx.suiting (m : HostMove) (r : Rx) : Rx :=
  if (decode r.view m).toOption = (decode (tableView m) m).toOption then r
  else if (tableView m).ps = .len then r.beginFrame
  else r.clear

/-- The state with a word of spec/opcode_table.json as the host's next move, in registers that read it as that
word (log entry 12). -/
def State.placeWord (s : State) (nbits w : Nat) : State :=
  match tableMove nbits w with
  | none => s
  | some m => { s with rx := s.rx.suiting m, pending := m :: s.pending }

end Sys2Proof.Machine
end

