-- ==== Sys2Proof/Machine/Step.lean ====
section
/-! DEFINITION. The step of the machine: the host's next move is taken, decoded in the registers of the moment, and
run. With no move to take nothing happens (log entry 10). -/

namespace Sys2Proof.Machine

/-- One step. -/
def step (s : State) : Host.Outcome State Fault Refusal :=
  match s.fetch with
  | none => .next s.quiet
  | some (m, s') =>
    match decode s.rx.view m with
    | .ok i => exec i s'
    | .error why => .refused (.illSizedCommand why)

/-- The state in which `step` takes a word of spec/opcode_table.json next. -/
def State.withFetchWord (s : State) (nbits w : Nat) : State := s.placeWord nbits w

end Sys2Proof.Machine
end

