-- ==== Sys2Proof/Safety.lean ====
section
/-! DEFINITION. What statements are made in: the invariants of the registers (10_state.md R30), the source's parser
states (R23), the events of a trace (00_scope.md R13), counts of reserved values, and shapes of wire bytes. -/

namespace Sys2Proof.Machine

/-- I1 of R30: in `IDLE` every register is at its reset value. -/
abbrev Rx.IdleClean (r : Rx) : Prop := r.ps = .idle → r = Rx.cleanIdle

/-- I2 of R30: while the length is collected. -/
abbrev Rx.LenShape (r : Rx) : Prop :=
  r.ps = .len → r.rem = 0 ∧ r.sum = 0 ∧ r.buf = [] ∧ r.len.extractLsb' 0 8 = 0 ∧ (r.lhv = false → r.len = 0)

/-- I3 of R30: while frame data is collected. -/
abbrev Rx.PayloadShape (maxLen : Word16) (r : Rx) : Prop :=
  r.ps = .payload →
    r.lhv = false ∧ 1 ≤ r.rem.toNat ∧ r.rem.toNat ≤ r.len.toNat ∧ r.len.toNat ≤ maxLen.toNat ∧
      r.buf.length = r.len.toNat - r.rem.toNat ∧ r.sum.toNat = byteSum r.buf % 256

/-- I4 of R30: while the checksum is awaited. -/
abbrev Rx.CsumShape (maxLen : Word16) (r : Rx) : Prop :=
  r.ps = .csum →
    r.lhv = false ∧ r.rem = 0 ∧ r.buf.length = r.len.toNat ∧ r.len.toNat ≤ maxLen.toNat ∧
      r.sum.toNat = byteSum r.buf % 256

/-- The invariants I1 to I4 and I6 of R30. I5 (`ESCP` = 1 implies `PS` is not `IDLE`) is part of I1. -/
abbrev Rx.Inv (maxLen : Word16) (r : Rx) : Prop :=
  r.IdleClean ∧ r.LenShape ∧ r.PayloadShape maxLen ∧ r.CsumShape maxLen ∧ Memory.wf maxLen r.buf

/-- The invariants of R30 in a state, for the state's own `MAX_LEN`. -/
abbrev State.Inv (s : State) : Prop := s.rx.Inv s.cfg.maxLen

/-- The variants of the source's `ParserState` (10_state.md R23). -/
inductive SourceState where
  | idle
  | collectingLength (partialBytes : List Byte)
  | collectingPayload (remaining : Nat)
  | awaitingChecksum
deriving DecidableEq, Repr

/-- The correspondence of R23. -/
def Rx.sourceState (r : Rx) : SourceState :=
  match r.ps, r.lhv with
  | .idle, _ => .idle
  | .len, false => .collectingLength []
  | .len, true => .collectingLength [r.len.extractLsb' 8 8]
  | .payload, _ => .collectingPayload r.rem.toNat
  | .csum, _ => .awaitingChecksum

/-- `events` of a list of outputs (00_scope.md R13): those that are not `Incomplete`, in order. -/
def eventsOf (os : List RxOut) : List FrameResult := (os.map RxOut.res).filter (· ≠ .incomplete)

/-- The number of elements that are in `RESERVED` (40_escape.md R121). -/
def reservedCount : List Byte → Nat
  | [] => 0
  | b :: bs => (if Params.reserved b then 1 else 0) + reservedCount bs

/-- The bytes that may follow an `ESC` in what the block emits (40_escape.md R122, 30_encoding.md R83). -/
abbrev EscapePartner (b : Byte) : Prop := b = 0x5E ∨ b = 0x5D ∨ b = 0x31 ∨ b = 0x33

/-- The alphabet of an escaped sequence (40_escape.md R122): no 0x7E, 0x11 or 0x13, and every 0x7D immediately
followed by one of the four partners. -/
def EscapedAlphabet : List Byte → Prop
  | [] => True
  | [b] => b ≠ Params.start ∧ b ≠ Params.xon ∧ b ≠ Params.xoff ∧ b ≠ Params.esc
  | b :: c :: bs =>
    b ≠ Params.start ∧ b ≠ Params.xon ∧ b ≠ Params.xoff ∧ (b = Params.esc → EscapePartner c) ∧ EscapedAlphabet (c :: bs)

end Sys2Proof.Machine

namespace Sys2Proof

/-- An operation of agent `RX` on the byte stream: what it writes is the registers (10_state.md R38). -/
def Instr.isReceive : Instr → Bool
  | .rxStart | .rxDrop _ | .rxEsc | .rxLenHi _ | .rxLenLo _ | .rxData _ | .rxCsum _ | .feed _ | .feedChunk _ => true
  | _ => false

/-- An operation of agent `TX`: what it writes is `OUT` (20_memory.md R50, R53). -/
def Instr.isTransmit : Instr → Bool
  | .txFrame _ | .txTransmit _ _ | .txRemoteAt _ _ _ => true
  | _ => false

/-- A called function or an escape case: it writes nothing but its result (10_state.md R21). -/
def Instr.isFunction : Instr → Bool
  | .escByte7E | .escByte7D | .escByte11 | .escByte13 | .escBytePass _ | .escape _ | .unescStep _ _ | .unescape _ _
  | .cksGen _ | .cksChk _ _ => true
  | _ => false

end Sys2Proof
end

