-- ==== Sys2Proof/Certificates/Slice0/Obligations.lean ====
section
/-! DEFINITION. The statements for the provers, from the numbered rules of spec/. A docstring names the rules and,
where a clause rests on a decision or an inference the spec marks as its own, or on a choice of the model, the
decision (D<n> of spec/92_eei_decisions.md) or the log entry. Where a statement says `exec i s = .next ...` it says
that the operation completes in every state it quantifies over, and the state it gives names everything that
changes: what is not named is unchanged. -/

open Sys2Proof Sys2Proof.Machine

/-! Reset. -/

/-- 10_state.md R33, 70 R282 (the values are decision D11; the streams and the model's own fields: log entries 1, 2,
3, 4): what reset leaves, for every choice of the parameters. -/
def Obligations.ResetStateIsCleanIdle : Prop :=
  (∀ c : Config,
    (State.resetWith c).rx.ps = .idle ∧ (State.resetWith c).rx.lhv = false ∧ (State.resetWith c).rx.len = 0x0000 ∧
      (State.resetWith c).rx.rem = 0x0000 ∧ (State.resetWith c).rx.sum = 0x00 ∧ (State.resetWith c).rx.escp = false ∧
      (State.resetWith c).rx.buf = [] ∧ (State.resetWith c).out = .none ∧ (State.resetWith c).outStream = [] ∧
      (State.resetWith c).pending = [] ∧ (State.resetWith c).cfg = c) ∧
    State.reset = State.resetWith Params.atReset

/-- The invariants of 10_state.md R30 hold after reset, for every choice of the parameters. -/
def Obligations.ResetStateMeetsInvariants : Prop :=
  (∀ c : Config, (State.resetWith c).Inv) ∧ State.reset.Inv

/-- RESET (70 R280, decision D11): every `RX` register at its clean-idle value, no output, everything else (`OUT`, the
parameters, the host's further moves) unchanged. -/
def Obligations.ResetClearsReceiverSilently : Prop :=
  ∀ s : State,
    exec .reset s =
      .next { s with
        rx := { ps := .idle, lhv := false, len := 0, rem := 0, sum := 0, escp := false, buf := [] }
        out := .none }

/-! The receive cases. -/

/-- RX_START (42 R152; the condition, the report and the next state are decision D4). -/
def Obligations.RxStartBeginsFrame : Prop :=
  ∀ s : State,
    exec .rxStart s =
      .next { s with
        rx := { ps := .len, lhv := false, len := 0, rem := 0, sum := 0, escp := false, buf := [] }
        out := .rx (if s.rx.ps = .idle then ⟨.incomplete, false⟩ else ⟨.invalid .unexpectedStart, true⟩) }

/-- RX_DROP (42 R154, decision D7): only the output changes. The rule selects it with `PS` = `IDLE` and a byte other than
0x7E; that it does the same elsewhere is the model's choice, log entry 9. -/
def Obligations.RxDropChangesNothing : Prop :=
  ∀ (s : State) (b : Byte), exec (.rxDrop b) s = .next { s with out := .rx ⟨.incomplete, false⟩ }

/-- RX_ESC (42 R156): it sets `ESCP` and changes nothing else; it is what a raw 0x7D selects in a frame when no escape
is pending. When one is pending a raw 0x7D is data 0x5D (decision D6). That RX_ESC has its effect in `IDLE`, or with
`ESCP` = 1, where the rule does not select it, is the model's choice, log entry 9. -/
def Obligations.RxEscSetsEscapePending : Prop :=
  (∀ s : State,
    exec .rxEsc s = .next { s with rx := { s.rx with escp := true }, out := .rx ⟨.incomplete, false⟩ }) ∧
    (∀ view : RxView, view.ps ≠ .idle → view.escp = false → decode view (.raw 0x7D) = .ok .rxEsc) ∧
    (∀ (view : RxView) (b : Byte), decode view (.raw b) = .ok .rxEsc →
      b = 0x7D ∧ view.ps ≠ .idle ∧ view.escp = false) ∧
    (∀ view : RxView, view.ps ≠ .idle → view.escp = true →
      ∃ i : Instr, decode view (.raw 0x7D) = .ok i ∧
        (i = .rxLenHi 0x5D ∨ i = .rxLenLo 0x5D ∨ i = .rxData 0x5D ∨ i = .rxCsum 0x5D))

/-- RX_LEN_HI (42 R160, R158; that no length check is made here is decision D3): `v` becomes the high byte of `LEN`,
the low byte stays. The rule selects it with `PS` = `LEN` and `LHV` = 0; that it does the same elsewhere is the model's
choice, log entry 9. -/
def Obligations.RxLenHiWritesHighByte : Prop :=
  ∀ (s : State) (v : Byte), ∃ l : Word16,
    l.toNat = v.toNat * 256 + s.rx.len.toNat % 256 ∧
      exec (.rxLenHi v) s =
        .next { s with
          rx := { s.rx with len := l, lhv := true, escp := false }
          out := .rx ⟨.incomplete, false⟩ }

/-- RX_LEN_LO (42 R162, R158; the meaning of an overrun is decision D3): the three outcomes of the length validation,
for every `MAX_LEN`. The rule selects it with `PS` = `LEN` and `LHV` = 1; that it does the same elsewhere is the model's
choice, log entry 9. -/
def Obligations.RxLenLoValidatesLength : Prop :=
  ∀ (s : State) (v : Byte) (n : Nat), n = s.rx.len.toNat / 256 * 256 + v.toNat →
    (s.cfg.maxLen.toNat < n →
      exec (.rxLenLo v) s =
        .next { s with rx := Rx.cleanIdle, out := .rx ⟨.invalid .lengthOverrun, false⟩ }) ∧
    (n = 0 →
      exec (.rxLenLo v) s =
        .next { s with
          rx := { s.rx with ps := .csum, lhv := false, len := 0, rem := 0, escp := false }
          out := .rx ⟨.incomplete, false⟩ }) ∧
    (n ≠ 0 → n ≤ s.cfg.maxLen.toNat →
      ∃ l : Word16, l.toNat = n ∧
        exec (.rxLenLo v) s =
          .next { s with
            rx := { s.rx with ps := .payload, lhv := false, len := l, rem := l, escp := false }
            out := .rx ⟨.incomplete, false⟩ })

/-- RX_DATA (42 R166): the byte is appended and summed modulo 256, `REM` counts down, the last one awaits the checksum;
the appended index reads as the byte and every other index as before; where the rule's state condition and the
invariants hold the buffer does not overflow. The rule selects it with `PS` = `PAYLOAD`; that it does the same elsewhere
is the model's choice, log entry 9. -/
def Obligations.RxDataCollectsByte : Prop :=
  (∀ (s : State) (v : Byte), ∃ (sum : Byte) (rem : Word16),
    sum.toNat = (s.rx.sum.toNat + v.toNat) % 256 ∧ (1 ≤ s.rx.rem.toNat → rem.toNat = s.rx.rem.toNat - 1) ∧
      exec (.rxData v) s =
        .next { s with
          rx := { s.rx with
            buf := s.rx.buf ++ [v], sum := sum, rem := rem, escp := false
            ps := if s.rx.rem.toNat = 1 then .csum else s.rx.ps }
          out := .rx ⟨.incomplete, false⟩ }) ∧
    (∀ (s t : State) (v : Byte), exec (.rxData v) s = .next t →
      t.rx.buf.byteAt s.rx.buf.length = some v ∧
        ∀ k : Nat, k ≠ s.rx.buf.length → t.rx.buf.byteAt k = s.rx.buf.byteAt k) ∧
    (∀ (s t : State) (v : Byte), s.Inv → s.rx.ps = .payload → exec (.rxData v) s = .next t →
      1 ≤ s.rx.rem.toNat ∧ t.rx.buf.length ≤ s.cfg.maxLen.toNat)

/-- RX_CSUM (42 R170; `WARN` = 0 in both outcomes is decision D9): the whole buffer is delivered or the mismatch
reported, and the registers are clean Idle; where the invariants hold the test is CKS_CHK of the buffer. The rule
selects it with `PS` = `CSUM`; that it does the same elsewhere is the model's choice, log entry 9. -/
def Obligations.RxCsumDeliversOrRejects : Prop :=
  (∀ (s : State) (v : Byte),
    exec (.rxCsum v) s =
      .next { s with
        rx := Rx.cleanIdle
        out := .rx (if (s.rx.sum.toNat + v.toNat) % 256 = 0xFF then ⟨.complete s.rx.buf, false⟩
          else ⟨.invalid .checksumMismatch, false⟩) }) ∧
    (∀ (s : State) (v : Byte), s.Inv → s.rx.ps = .csum →
      ((s.rx.sum.toNat + v.toNat) % 256 = 0xFF ↔ v = checksumOf s.rx.buf))

/-- FEED (42 R150, R158; 30 R88): the operation map and the dispatch of FEED agree in every state on every byte, and
every one of them completes; the seven cases in the order the dispatch tests them. -/
def Obligations.FeedRunsTheSelectedCase : Prop :=
  (∀ (s : State) (b : Byte), ∃ t : State,
    exec (.feed b) s = .next t ∧ exec (decodeRaw s.rx.view b) s = .next t) ∧
    (∀ (view : RxView) (b : Byte),
      decodeRaw view b =
        if b = 0x7E then .rxStart
        else if view.ps = .idle then .rxDrop b
        else if view.escp = false ∧ b = 0x7D then .rxEsc
        else
          if view.ps = .len ∧ view.lhv = false then .rxLenHi (if view.escp then b ^^^ 0x20 else b)
          else if view.ps = .len then .rxLenLo (if view.escp then b ^^^ 0x20 else b)
          else if view.ps = .payload then .rxData (if view.escp then b ^^^ 0x20 else b)
          else .rxCsum (if view.escp then b ^^^ 0x20 else b))

/-- FEED_CHUNK (42 R176): the empty chunk, the fold, one output per byte, and the cut of a chunk anywhere. -/
def Obligations.FeedChunkIsFoldOfFeed : Prop :=
  (∀ s : State, exec (.feedChunk []) s = .next { s with out := .rxChunk [] }) ∧
    (∀ (s : State) (b : Byte) (bs : List Byte), ∃ (t : State) (o : RxOut) (r : Rx) (os : List RxOut),
      exec (.feed b) s = .next t ∧ t.out = .rx o ∧
        exec (.feedChunk bs) t = .next { t with rx := r, out := .rxChunk os } ∧
        exec (.feedChunk (b :: bs)) s = .next { s with rx := r, out := .rxChunk (o :: os) } ∧
        os.length = bs.length) ∧
    (∀ (s : State) (as bs : List Byte), ∃ (t : State) (os : List RxOut) (r : Rx) (ps : List RxOut),
      exec (.feedChunk as) s = .next t ∧ t.out = .rxChunk os ∧
        exec (.feedChunk bs) t = .next { t with rx := r, out := .rxChunk ps } ∧
        exec (.feedChunk (as ++ bs)) s = .next { s with rx := r, out := .rxChunk (os ++ ps) })

/-! The escape processor. -/

/-- ESC_BYTE (40 R112): the five rows, and the row a logical byte selects, on all 256 values; no state changes. The row
ESC_BYTE.PASS is for the 252 values that are not reserved; that it gives a reserved byte unchanged when run on one, which
no logical byte selects, is the model's choice, log entry 9. -/
def Obligations.EscByteGivesPairOrByte : Prop :=
  ∀ s : State,
    exec .escByte7E s = .next { s with out := .bytes [0x7D, 0x5E] } ∧
      exec .escByte7D s = .next { s with out := .bytes [0x7D, 0x5D] } ∧
      exec .escByte11 s = .next { s with out := .bytes [0x7D, 0x31] } ∧
      exec .escByte13 s = .next { s with out := .bytes [0x7D, 0x33] } ∧
      (∀ o : Byte, exec (.escBytePass o) s = .next { s with out := .bytes [o] }) ∧
      (∀ o : Byte,
        exec (decodeLogical o) s =
          .next { s with
            out := .bytes (if o = 0x7E ∨ o = 0x7D ∨ o = 0x11 ∨ o = 0x13 then [0x7D, o ^^^ 0x20] else [o]) })

/-- ESCAPE (40 R114): ESC_BYTE of each element, joined in order; escaping twice escapes again; the `START` of a frame is
put in front after escaping. -/
def Obligations.EscapeJoinsEscapedBytes : Prop :=
  (∀ (s : State) (bs : List Byte),
    exec (.escape bs) s =
      .next { s with
        out := .bytes (bs.flatMap fun o =>
          if o = 0x7E ∨ o = 0x7D ∨ o = 0x11 ∨ o = 0x13 then [0x7D, o ^^^ 0x20] else [o]) }) ∧
    escapeBytes (escapeBytes [0x7E]) = [0x7D, 0x5D, 0x5E] ∧
    (∀ p : List Byte, wireFrame p = 0x7E :: escapeBytes (frameBody p))

/-- UNESC_STEP (40 R116; the corner cases are decisions D5, D6, D8; that the host's call writes no register is log
entry 8). -/
def Obligations.UnescStepGivesFlagAndToken : Prop :=
  ∀ (s : State) (e : Bool) (b : Byte),
    exec (.unescStep e b) s =
      .next { s with
        out :=
          if b = 0x7E then .unesc false .tStart
          else if e = false ∧ b = 0x7D then .unesc true .tNone
          else if e then .unesc false (.tByte (b ^^^ 0x20))
          else .unesc false (.tByte b) }

/-- UNESCAPE (40 R118; that the host's call writes no register is log entry 8): it completes on every sequence, and
its result is the fold of UNESC_STEP with the `T_NONE` tokens left out; `unescape_bytes` is defined when there is no
`T_START` and the final flag is 0, and is then the values of the `T_BYTE` tokens. -/
def Obligations.UnescapeIsFoldOfUnescStep : Prop :=
  (∀ (s : State) (e : Bool) (bs : List Byte), ∃ (ts : List Token) (f : Bool),
    exec (.unescape e bs) s = .next { s with out := .tokens ts f }) ∧
    (∀ (s : State) (e : Bool), exec (.unescape e []) s = .next { s with out := .tokens [] e }) ∧
    (∀ (s : State) (e e' : Bool) (b : Byte) (bs : List Byte) (t : Token) (ts : List Token) (f : Bool),
      exec (.unescStep e b) s = .next { s with out := .unesc e' t } →
      exec (.unescape e' bs) s = .next { s with out := .tokens ts f } →
      exec (.unescape e (b :: bs)) s =
        .next { s with out := .tokens ((if t = .tNone then [] else [t]) ++ ts) f }) ∧
    (∀ bs vs : List Byte, unescapedBytes bs = some vs ↔ unescapeTokens false bs = (vs.map Token.tByte, false))

/-- The register side of 40 R118 and R116: while `RX` stays in a frame, `ESCP` after a chunk is the final flag of
UNESCAPE started from `ESCP` (log entry 8). -/
def Obligations.EscapePendingIsUnescapeFlag : Prop :=
  ∀ (s t : State) (bs : List Byte),
    (∀ (k : Nat) (u : State), k < bs.length → exec (.feedChunk (bs.take k)) s = .next u → u.rx.ps ≠ .idle) →
    exec (.feedChunk bs) s = .next t →
    t.rx.escp = (unescapeTokens s.rx.escp bs).2

/-- 40 R120: the round trip, for every byte sequence. -/
def Obligations.UnescapeOfEscapeIsIdentity : Prop :=
  ∀ bs : List Byte, unescapedBytes (escapeBytes bs) = some bs

/-- 40 R121: the length of an escaped sequence, and its bounds. -/
def Obligations.EscapeLengthCountsReserved : Prop :=
  ∀ bs : List Byte,
    (escapeBytes bs).length = bs.length + bs.countP (fun b => b = 0x7E ∨ b = 0x7D ∨ b = 0x11 ∨ b = 0x13) ∧
      bs.length ≤ (escapeBytes bs).length ∧ (escapeBytes bs).length ≤ 2 * bs.length

/-- 40 R122 (the spec's inference from R112): no `START`, `XON` or `XOFF` in an escaped sequence, and every `ESC` is
immediately followed by one of the four partners. -/
def Obligations.EscapeOutputAlphabet : Prop :=
  ∀ bs : List Byte, EscapedAlphabet (escapeBytes bs)

/-- 40 R123 (the spec's inference): ESCAPE distributes over concatenation and is injective. -/
def Obligations.EscapeAppendAndInjective : Prop :=
  (∀ as bs : List Byte, escapeBytes (as ++ bs) = escapeBytes as ++ escapeBytes bs) ∧
    (∀ as bs : List Byte, escapeBytes as = escapeBytes bs → as = bs)

/-- 40 R124 (the spec's inference): UNESCAPE composes over chunks. -/
def Obligations.UnescapeComposesOverChunks : Prop :=
  ∀ (e : Bool) (as bs : List Byte),
    unescapeTokens e (as ++ bs) =
      ((unescapeTokens e as).1 ++ (unescapeTokens (unescapeTokens e as).2 bs).1,
        (unescapeTokens (unescapeTokens e as).2 bs).2)

/-! The checksum. -/

/-- CKS_GEN (41 R130): 0xFF less the byte sum modulo 256, which is its complement; the order of the bytes does not
matter. -/
def Obligations.CksGenIsComplementOfSum : Prop :=
  (∀ (s : State) (d : List Byte), ∃ c : Byte,
    c.toNat = 0xFF - (d.map BitVec.toNat).sum % 256 ∧ c = ~~~(BitVec.ofNat 8 (d.map BitVec.toNat).sum) ∧
      exec (.cksGen d) s = .next { s with out := .checksum c }) ∧
    (∀ d d' : List Byte, d.Perm d' → checksumOf d = checksumOf d')

/-- CKS_CHK (41 R132): valid iff the sum with the checksum is 0xFF modulo 256; exactly one checksum is valid for a frame
data; a change of one byte is always detected. -/
def Obligations.CksChkTestsSum : Prop :=
  (∀ (s : State) (d : List Byte) (c : Byte),
    exec (.cksChk d c) s =
      .next { s with
        out := .check (if ((d.map BitVec.toNat).sum + c.toNat) % 256 = 0xFF then .valid else .mismatch) }) ∧
    (∀ d : List Byte, ∃! c : Byte, checkChecksum d c = .valid) ∧
    (∀ (as bs : List Byte) (x y c : Byte), x ≠ y → checkChecksum (as ++ x :: bs) c = .valid →
      checkChecksum (as ++ y :: bs) c = .mismatch)

/-- 41 R134, R135, R136 (the spec's inference): the running 8-bit sum decides the test, and a checksum is valid iff it
is the generated one. -/
def Obligations.RunningSumAndGeneratorDecideCheck : Prop :=
  ∀ (d : List Byte) (c : Byte),
    (d.foldl sumStep 0).toNat = (d.map BitVec.toNat).sum % 256 ∧
      (checkChecksum d c = .valid ↔ ((d.foldl sumStep 0).toNat + c.toNat) % 256 = 0xFF) ∧
      (checkChecksum d c = .valid ↔ c = checksumOf d)

/-- 41 R137 (the spec's inference): the checksum of a longer frame data from that of a shorter one. -/
def Obligations.ChecksumIsIncremental : Prop :=
  (∀ as bs : List Byte, checksumOf (as ++ bs) = checksumOf as - BitVec.ofNat 8 (bs.map BitVec.toNat).sum) ∧
    (∀ (d : List Byte) (x : Byte), checksumOf (d ++ [x]) = checksumOf d - x)

/-! The builder. -/

/-- TX_FRAME (43 R202, and the refusal R204, decision D17): an accepted frame data is wrapped, escaped after `START` and
appended to `OUT`; a longer one is refused and nothing is emitted. No register is read or written. -/
def Obligations.TxFrameWrapsOrRefuses : Prop :=
  ∀ (s : State) (p : List Byte),
    (p.length ≤ s.cfg.maxLen.toNat → ∃ hi lo c : Byte,
      hi.toNat * 256 + lo.toNat = p.length ∧ c.toNat = 0xFF - (p.map BitVec.toNat).sum % 256 ∧
        exec (.txFrame p) s =
          .next { s with
            outStream := s.outStream ++ 0x7E :: escapeBytes (hi :: lo :: p ++ [c])
            out := .tx .ok (0x7E :: escapeBytes (hi :: lo :: p ++ [c])) }) ∧
    (s.cfg.maxLen.toNat < p.length → exec (.txFrame p) s = .next { s with out := .tx .refusedTooLong [] })

/-- TX_TRANSMIT (43 R210 and the layout R212, which the spec takes from general knowledge: decision D15, log entry 6):
the frame data, with every parameter free, and TX_FRAME of it. -/
def Obligations.TxTransmitEncodesRequest : Prop :=
  ∀ (s : State) (a : LongAddr) (data p : List Byte),
    p = s.cfg.txType :: s.cfg.frameId :: a.a0 :: a.a1 :: a.a2 :: a.a3 :: a.a4 :: a.a5 :: a.a6 :: a.a7 ::
      s.cfg.dest16.1 :: s.cfg.dest16.2 :: s.cfg.txRadius :: s.cfg.txOptions :: data →
    exec (.txTransmit a data) s = exec (.txFrame p) s ∧
      (14 + data.length ≤ s.cfg.maxLen.toNat →
        exec (.txTransmit a data) s =
          .next { s with outStream := s.outStream ++ wireFrame p, out := .tx .ok (wireFrame p) }) ∧
      (s.cfg.maxLen.toNat < 14 + data.length →
        exec (.txTransmit a data) s = .next { s with out := .tx .refusedTooLong [] })

/-- TX_REMOTE_AT (43 R220 and the layout R222, decisions D16, D18, log entry 6): the frame data, and TX_FRAME of it; any
command and any parameter are accepted. -/
def Obligations.TxRemoteAtEncodesRequest : Prop :=
  ∀ (s : State) (a : LongAddr) (c : AtCommand) (parameter p : List Byte),
    p = 0x17 :: s.cfg.frameId :: a.a0 :: a.a1 :: a.a2 :: a.a3 :: a.a4 :: a.a5 :: a.a6 :: a.a7 ::
      s.cfg.dest16.1 :: s.cfg.dest16.2 :: 0x02 :: c.c0 :: c.c1 :: parameter →
    exec (.txRemoteAt a c parameter) s = exec (.txFrame p) s ∧
      (15 + parameter.length ≤ s.cfg.maxLen.toNat →
        exec (.txRemoteAt a c parameter) s =
          .next { s with outStream := s.outStream ++ wireFrame p, out := .tx .ok (wireFrame p) }) ∧
      (s.cfg.maxLen.toNat < 15 + parameter.length →
        exec (.txRemoteAt a c parameter) s = .next { s with out := .tx .refusedTooLong [] })

/-- 43 R236, 30 R91 (the spec's inference): what stands in every emitted frame. -/
def Obligations.WireAlphabet : Prop :=
  ∀ (i : Instr) (s t : State) (w : List Byte), exec i s = .next t → t.out = .tx .ok w →
    ∃ rest : List Byte, w = 0x7E :: rest ∧ EscapedAlphabet rest

/-- 30 R86: the wire length of an emitted frame, `k` counting the reserved values among the two length bytes, the frame
data and the checksum. -/
def Obligations.WireLength : Prop :=
  ∀ (s t : State) (p w : List Byte), exec (.txFrame p) s = .next t → t.out = .tx .ok w →
    w.length = 4 + p.length +
      reservedCount ([BitVec.ofNat 8 (p.length / 256), BitVec.ofNat 8 p.length] ++ p ++ [checksumOf p])

/-- 43 R231 (the spec's inference): the builder is injective on accepted commands, across the kinds too when the two
frame types differ. -/
def Obligations.BuilderIsInjective : Prop :=
  (∀ (s t t' : State) (a a' : LongAddr) (d d' w : List Byte),
    exec (.txTransmit a d) s = .next t → t.out = .tx .ok w →
    exec (.txTransmit a' d') s = .next t' → t'.out = .tx .ok w → a = a' ∧ d = d') ∧
    (∀ (s t t' : State) (a a' : LongAddr) (c c' : AtCommand) (q q' w : List Byte),
      exec (.txRemoteAt a c q) s = .next t → t.out = .tx .ok w →
      exec (.txRemoteAt a' c' q') s = .next t' → t'.out = .tx .ok w → a = a' ∧ c = c' ∧ q = q') ∧
    (∀ (s t t' : State) (a a' : LongAddr) (c : AtCommand) (d q w w' : List Byte), s.cfg.txType ≠ 0x17 →
      exec (.txTransmit a d) s = .next t → t.out = .tx .ok w →
      exec (.txRemoteAt a' c q) s = .next t' → t'.out = .tx .ok w' → w ≠ w')

/-! The step. -/

/-- What a step is: the host's next move, decoded in the registers of the moment, is run with the move taken. -/
def Obligations.StepRunsDecodedMove : Prop :=
  ∀ (s : State) (m : HostMove) (rest : List HostMove) (i : Instr),
    s.pending = m :: rest → decode s.rx.view m = .ok i → step s = exec i { s with pending := rest }

/-- With no move left nothing happens but that the last outputs are gone (20_memory.md R67; the model's choice, log
entry 10). -/
def Obligations.StepWithoutMoveIsQuiet : Prop :=
  ∀ s : State, s.pending = [] → step s = .next { s with out := .none }

/-- 60 R260, 00 R8: no step faults, and a step is refused only for a descriptor whose fixed fields are too short, which
10_state.md R37 says cannot be expressed (log entry 11). -/
def Obligations.StepStopsOnlyOnIllSizedCommand : Prop :=
  (∀ (s : State) (f : Fault), step s ≠ .fault f) ∧
    (∀ s : State,
      (∃ r : Refusal, step s = .refused r) ↔
        ∃ (k : BitVec 1) (fields : List Byte) (rest : List HostMove),
          s.pending = .command k fields :: rest ∧ (fields.length < 8 ∨ (k = 1 ∧ fields.length < 10)))

/-- 10_state.md R30 (the spec's inference): every step keeps the invariants I1 to I6. -/
def Obligations.StepKeepsInvariants : Prop :=
  ∀ s t : State, s.Inv → step s = .next t → t.Inv

/-- 70 R298, R282 (decision D2): no step changes the parameters. -/
def Obligations.StepKeepsParameters : Prop :=
  ∀ s t : State, step s = .next t → t.cfg = s.cfg

/-- 20_memory.md R51 (how `IN` stands in the state: log entry 1): a raw byte is always consumed, in order, and is then
gone, whatever the state and the byte; what it does does not depend on what comes after it. -/
def Obligations.RawByteIsConsumedOnce : Prop :=
  (∀ (s : State) (b : Byte), ∃ (r : Rx) (o : RxOut), ∀ rest : List HostMove,
    step { s with pending := .raw b :: rest } = .next { s with rx := r, out := .rx o, pending := rest }) ∧
    (∀ (s t : State) (m : HostMove) (rest : List HostMove), s.pending = m :: rest → step s = .next t → t.pending = rest)

/-- 20_memory.md R53, R62: `OUT` grows by the whole `WIRE` of each step with `TXS` = `Ok`, at its end, and by nothing
else. -/
def Obligations.OutStreamGrowsByWholeFrames : Prop :=
  ∀ s t : State, step s = .next t →
    (∃ w : List Byte, t.out = .tx .ok w ∧ t.outStream = s.outStream ++ w) ∨
      ((∀ w : List Byte, t.out ≠ .tx .ok w) ∧ t.outStream = s.outStream)

/-- The frames of all 23 operations (10_state.md R21, R38; 43 R200; 70 R280): a receive operation writes the registers
and its output, a transmit operation `OUT` and its output, a called function its output, RESET the registers. -/
def Obligations.OperationsWriteOnlyTheirOwn : Prop :=
  ∀ (i : Instr) (s t : State), exec i s = .next t →
    (i.isReceive = true → t = { s with rx := t.rx, out := t.out }) ∧
    (i.isTransmit = true → t = { s with outStream := t.outStream, out := t.out }) ∧
    (i.isFunction = true → t = { s with out := t.out }) ∧
    (i = .reset → t = { s with rx := t.rx, out := t.out }) ∧
    (i.isReceive = true ∨ i.isTransmit = true ∨ i.isFunction = true ∨ i = .reset)

/-- 10_state.md R38: what `TX` and the called functions give does not depend on `RX`, and what `RX` gives does not
depend on what was sent. -/
def Obligations.AgentsDoNotInterfere : Prop :=
  (∀ (i : Instr) (s s' t t' : State), i.isTransmit = true ∨ i.isFunction = true → s.cfg = s'.cfg →
    exec i s = .next t → exec i s' = .next t' → t.out = t'.out) ∧
    (∀ (i : Instr) (s s' t t' : State), i.isReceive = true → s.cfg = s'.cfg → s.rx = s'.rx →
      exec i s = .next t → exec i s' = .next t' → t.rx = t'.rx ∧ t.out = t'.out)

/-- 00 R6, 10_state.md R38 (decision D22): a receive operation and a transmit operation may be interleaved either way:
the registers and `OUT` come out the same. -/
def Obligations.InterleavingsAgree : Prop :=
  ∀ (i j : Instr) (s a b c d : State), i.isReceive = true → j.isTransmit = true →
    exec i s = .next a → exec j a = .next b → exec j s = .next c → exec i c = .next d →
    b.rx = d.rx ∧ b.outStream = d.outStream ∧ b.out = c.out ∧ a.out = d.out

/-- 42 R150 and R176, 90 C8: feeding raw bytes one step each and feeding them as one chunk leave the same state, but for
the outputs of the last step. -/
def Obligations.RawStepsRunLikeOneChunk : Prop :=
  ∀ (s : State) (bs : List Byte) (rest : List HostMove), s.pending = bs.map HostMove.raw ++ rest →
    ∃ t c : State, Host.Core.run core bs.length s = .next t ∧
      exec (.feedChunk bs) { s with pending := rest } = .next c ∧ { t with out := .none } = { c with out := .none }

/-! Rules of the whole receiver. -/

/-- 42 R190 (the spec's inference): the transition table. In a state that meets the invariants, the row that applies and
what it gives; the rows are all the cases there are. -/
def Obligations.ParserTransitionTable : Prop :=
  ∀ (s : State) (b v : Byte) (n : Nat), s.Inv → v = (if s.rx.escp then b ^^^ 0x20 else b) →
    n = s.rx.len.toNat / 256 * 256 + v.toNat →
    ∃ (t : State) (o : RxOut), exec (.feed b) s = .next t ∧ t.out = .rx o ∧
      if b = 0x7E then
        t.rx = { Rx.cleanIdle with ps := .len } ∧
          o = if s.rx.ps = .idle then ⟨.incomplete, false⟩ else ⟨.invalid .unexpectedStart, true⟩
      else if s.rx.ps = .idle then t.rx = s.rx ∧ o = ⟨.incomplete, false⟩
      else if s.rx.escp = false ∧ b = 0x7D then t.rx = { s.rx with escp := true } ∧ o = ⟨.incomplete, false⟩
      else if s.rx.ps = .len ∧ s.rx.lhv = false then
        t.rx.ps = .len ∧ t.rx.lhv = true ∧ t.rx.len.toNat = v.toNat * 256 ∧ o = ⟨.incomplete, false⟩
      else if s.rx.ps = .len then
        if s.cfg.maxLen.toNat < n then t.rx = Rx.cleanIdle ∧ o = ⟨.invalid .lengthOverrun, false⟩
        else if n = 0 then t.rx = { Rx.cleanIdle with ps := .csum } ∧ o = ⟨.incomplete, false⟩
        else t.rx.ps = .payload ∧ t.rx.len.toNat = n ∧ t.rx.rem.toNat = n ∧ t.rx.buf = [] ∧ o = ⟨.incomplete, false⟩
      else if s.rx.ps = .payload then
        t.rx.ps = (if 2 ≤ s.rx.rem.toNat then .payload else .csum) ∧ t.rx.rem.toNat = s.rx.rem.toNat - 1 ∧
          t.rx.len = s.rx.len ∧ t.rx.buf = s.rx.buf ++ [v] ∧ o = ⟨.incomplete, false⟩
      else
        t.rx = Rx.cleanIdle ∧
          o = if (s.rx.sum.toNat + v.toNat) % 256 = 0xFF then ⟨.complete s.rx.buf, false⟩
            else ⟨.invalid .checksumMismatch, false⟩

/-- 42 R192 (the spec's inference): the transitions there are not. -/
def Obligations.NoShortcutTransitions : Prop :=
  ∀ (s t : State) (b : Byte), exec (.feed b) s = .next t →
    (s.rx.ps = .idle → t.rx.ps = .idle ∨ (t.rx.ps = .len ∧ b = 0x7E)) ∧
      (s.rx.ps = .payload → t.rx.ps = .len → b = 0x7E) ∧ (s.rx.ps = .csum → t.rx.ps = .len → b = 0x7E) ∧
      (s.rx.ps = .csum → t.rx.ps ≠ .payload)

/-- 42 R172, 60 R242, R254 (decisions D4, D9, D11): the state after each result, and which result asserts `WARN`. -/
def Obligations.StateAfterEachResult : Prop :=
  ∀ (s t : State) (b : Byte) (o : RxOut), exec (.feed b) s = .next t → t.out = .rx o →
    (∀ f : List Byte, o.res = .complete f → t.rx = Rx.cleanIdle) ∧
      (o.res = .invalid .checksumMismatch → t.rx = Rx.cleanIdle) ∧
      (o.res = .invalid .lengthOverrun → t.rx = Rx.cleanIdle) ∧
      (o.res = .invalid .unexpectedStart → t.rx = { Rx.cleanIdle with ps := .len }) ∧
      (o.warn = true ↔ o.res = .invalid .unexpectedStart)

/-- 42 R174, 60 R242 (the spec's inference): the only causes of a result other than `Incomplete`. -/
def Obligations.ResultsHaveOneCause : Prop :=
  ∀ (s t : State) (b : Byte) (o : RxOut), exec (.feed b) s = .next t → t.out = .rx o →
    (o.res = .invalid .unexpectedStart ↔ b = 0x7E ∧ s.rx.ps ≠ .idle) ∧
      (o.res = .invalid .lengthOverrun →
        s.rx.ps = .len ∧ s.rx.lhv = true ∧
          s.cfg.maxLen.toNat < s.rx.len.toNat / 256 * 256 + (if s.rx.escp then b ^^^ 0x20 else b).toNat) ∧
      (o.res = .invalid .checksumMismatch →
        s.rx.ps = .csum ∧ (s.rx.sum.toNat + (if s.rx.escp then b ^^^ 0x20 else b).toNat) % 256 ≠ 0xFF) ∧
      (∀ f : List Byte, o.res = .complete f → s.rx.ps = .csum ∧ f = s.rx.buf)

/-- 60 R250 (the spec's inference; decisions D5, D6, D7): a raw 0x7E is a `START` before anything else, the Idle test
comes before the escape test, a pending escape is applied before a byte is classed as `ESC`. -/
def Obligations.ReadingsOfAByteHavePriority : Prop :=
  (∀ view : RxView, decode view (.raw 0x7E) = .ok .rxStart) ∧
    (∀ s : State, s.rx.ps = .idle → exec (.feed 0x7D) s = .next { s with out := .rx ⟨.incomplete, false⟩ }) ∧
    (∀ s : State, s.rx.ps = .payload → s.rx.escp = true → exec (.feed 0x7D) s = exec (.rxData 0x5D) s) ∧
    (∀ s : State, s.rx.ps = .csum → s.rx.escp = true → exec (.feed 0x7D) s = exec (.rxCsum 0x5D) s) ∧
    (∀ s : State, s.rx.ps = .len → s.rx.lhv = false → s.rx.escp = true →
      exec (.feed 0x7D) s = exec (.rxLenHi 0x5D) s) ∧
    (∀ s : State, s.rx.ps = .len → s.rx.lhv = true → s.rx.escp = true →
      exec (.feed 0x7D) s = exec (.rxLenLo 0x5D) s)

/-- 10_state.md R23: the correspondence with the source's parser states, in a state that meets the invariants. -/
def Obligations.SourceStateCorrespondence : Prop :=
  ∀ s : State, s.Inv →
    (s.rx.sourceState = .idle ↔ s.rx = Rx.cleanIdle) ∧
      (s.rx.sourceState = .collectingLength [] ↔ s.rx.ps = .len ∧ s.rx.lhv = false) ∧
      (∀ h : Byte, s.rx.sourceState = .collectingLength [h] ↔
        s.rx.ps = .len ∧ s.rx.lhv = true ∧ s.rx.len.toNat / 256 = h.toNat) ∧
      (∀ n : Nat, s.rx.sourceState = .collectingPayload n ↔
        s.rx.ps = .payload ∧ s.rx.rem.toNat = n ∧ 1 ≤ n ∧ n ≤ s.rx.len.toNat) ∧
      (s.rx.sourceState = .awaitingChecksum ↔ s.rx.ps = .csum ∧ s.rx.rem = 0)

/-- 42 R164, 10_state.md R25 (the spec's inference): in a state that meets the invariants a delivered frame has exactly
the declared length, which is at most `MAX_LEN`, and its checksum is the byte just taken. -/
def Obligations.DeliveredFrameHasDeclaredLength : Prop :=
  ∀ (s t : State) (b : Byte) (f : List Byte) (w : Bool), s.Inv → exec (.feed b) s = .next t →
    t.out = .rx ⟨.complete f, w⟩ →
    f.length = s.rx.len.toNat ∧ f.length ≤ s.cfg.maxLen.toNat ∧
      (if s.rx.escp then b ^^^ 0x20 else b) = checksumOf f

/-- 42 R182 (the spec's inference): after a raw 0x7E nothing that came before matters: the registers, and every output
after that of the 0x7E itself, agree. -/
def Obligations.StartResynchronizes : Prop :=
  ∀ (s s' t t' : State) (bs : List Byte) (os os' : List RxOut), s.cfg.maxLen = s'.cfg.maxLen →
    exec (.feedChunk (0x7E :: bs)) s = .next t → t.out = .rxChunk os →
    exec (.feedChunk (0x7E :: bs)) s' = .next t' → t'.out = .rxChunk os' →
    t.rx = t'.rx ∧ os.tail = os'.tail

/-- 42 R180 (the spec's inference): the wire frame of any frame data up to `MAX_LEN` is recognised from every state:
the outputs of all its bytes, and clean Idle after. -/
def Obligations.WellFormedFrameIsRecognised : Prop :=
  ∀ (s : State) (d w : List Byte), d.length ≤ s.cfg.maxLen.toNat →
    w = escapeBytes ([BitVec.ofNat 8 (d.length / 256), BitVec.ofNat 8 d.length] ++ d ++ [checksumOf d]) →
    exec (.feedChunk (0x7E :: w)) s =
      .next { s with
        rx := Rx.cleanIdle
        out := .rxChunk
          ((if s.rx.ps = .idle then ⟨.incomplete, false⟩ else ⟨.invalid .unexpectedStart, true⟩) ::
            (List.replicate (w.length - 1) ⟨.incomplete, false⟩ ++ [⟨.complete d, false⟩])) }

/-- 42 R184, 43 R230 (the spec's inference): every accepted command loops back: fed to a receiver in clean Idle, its
`WIRE` gives exactly one event, the frame data it was built from, and leaves clean Idle. -/
def Obligations.AcceptedCommandLoopsBack : Prop :=
  ∀ (i : Instr) (s t : State) (p w : List Byte),
    (i = .txFrame p ∨ (∃ a d, i = .txTransmit a d ∧ p = transmitData s.cfg a d) ∨
      ∃ a c q, i = .txRemoteAt a c q ∧ p = remoteAtData s.cfg a c q) →
    exec i s = .next t → t.out = .tx .ok w →
    ∃ (u : State) (os : List RxOut), exec (.feedChunk w) { t with rx := Rx.cleanIdle } = .next u ∧
      u.out = .rxChunk os ∧ eventsOf os = [.complete p] ∧ u.rx = Rx.cleanIdle

/-- 42 R192 with R126, R162, R164, R170 (the spec's inference): the converse. From clean Idle a frame is reported only
for bytes that end in a raw 0x7E and, with no further raw 0x7E, an encoding of that frame: its big-endian length, its
data and its checksum, once un-escaped. -/
def Obligations.OnlyFramesAreReported : Prop :=
  ∀ (s t : State) (bs : List Byte) (os : List RxOut) (f : List Byte) (w : Bool), s.rx = Rx.cleanIdle →
    exec (.feedChunk bs) s = .next t → t.out = .rxChunk os → os.getLast? = some ⟨.complete f, w⟩ →
    ∃ before body : List Byte, bs = before ++ 0x7E :: body ∧ 0x7E ∉ body ∧ f.length ≤ s.cfg.maxLen.toNat ∧
      unescapedBytes body =
        some ([BitVec.ofNat 8 (f.length / 256), BitVec.ofNat 8 f.length] ++ f ++ [checksumOf f])

/-- 42 R186 (the spec's inference): a frame begun by a raw 0x7E is over within 2 * (MAX_LEN + 3) raw bytes, provided
that many arrive and none of them is a raw 0x7E. -/
def Obligations.FrameEndsWithinBound : Prop :=
  ∀ (s : State) (bs : List Byte), 0x7E ∉ bs → 2 * (s.cfg.maxLen.toNat + 3) ≤ bs.length →
    ∃ (k : Nat) (t : State), k ≤ 2 * (s.cfg.maxLen.toNat + 3) ∧
      exec (.feedChunk (0x7E :: bs.take k)) s = .next t ∧ t.rx.ps = .idle

/-! Encodings. -/

/-- 30 R88, R98, R101 and the table: the decoder gives back every operation that its row allows in the registers, with
every operand at every value. -/
def Obligations.DecodeOfEncodeIsIdentity : Prop :=
  ∀ (view : RxView) (i : Instr), i.wellFormed = true → i.selectable view = true → decode view (encode view i) = .ok i

/-- 30 R88, R98, R101: what the decoder gives is well formed, allowed in the registers, and encodes to what was handed
over: no bit is dropped. -/
def Obligations.EncodeOfDecodeIsIdentity : Prop :=
  ∀ (view : RxView) (m : HostMove) (i : Instr), decode view m = .ok i →
    i.wellFormed = true ∧ i.selectable view = true ∧ encode view i = m

/-- 30 R88 (the spec's inference): every pair of registers and raw byte selects exactly one operation. -/
def Obligations.RawByteSelectsExactlyOne : Prop :=
  ∀ (view : RxView) (b : Byte), ∃! i : Instr,
    i.wellFormed = true ∧ i.selectable view = true ∧ encode view i = .raw b

/-- Words written out from 30 R81, R82, R83, R98 and the table's rows. -/
def Obligations.SampleWordsDecode : Prop :=
  decode ⟨.idle, false, false⟩ (.raw 0b01111110) = .ok .rxStart ∧
    decode ⟨.payload, false, false⟩ (.raw 0b01111101) = .ok .rxEsc ∧
    decode ⟨.len, true, true⟩ (.raw 0b00110001) = .ok (.rxLenLo 0b00010001) ∧
    decode ⟨.csum, false, true⟩ (.raw 0b01011110) = .ok (.rxCsum 0b01111110) ∧
    decode ⟨.idle, false, false⟩ (.logical 0b00010011) = .ok .escByte13 ∧
    decode ⟨.idle, false, false⟩ (.command 0b0 [0, 0x13, 0xA2, 0, 0x40, 0x0A, 1, 0x27, 0x48, 0x69]) =
      .ok (.txTransmit ⟨0, 0x13, 0xA2, 0, 0x40, 0x0A, 1, 0x27⟩ [0x48, 0x69]) ∧
    decode ⟨.idle, false, false⟩ (.command 0b1 [0, 0x13, 0xA2, 0, 0x40, 0x0A, 1, 0x27, 0x44, 0x30, 0, 5]) =
      .ok (.txRemoteAt ⟨0, 0x13, 0xA2, 0, 0x40, 0x0A, 1, 0x27⟩ ⟨0x44, 0x30⟩ [0, 5])

/-- 10_state.md R39 (decision D10): the numeric codes. -/
def Obligations.NumericCodes : Prop :=
  psCode .idle = 0 ∧ psCode .len = 1 ∧ psCode .payload = 2 ∧ psCode .csum = 3 ∧
    resKindCode .incomplete = 0 ∧ (∀ f, resKindCode (.complete f) = 1) ∧ (∀ r, resKindCode (.invalid r) = 2) ∧
    reasonCode .checksumMismatch = 1 ∧ reasonCode .lengthOverrun = 2 ∧ reasonCode .unexpectedStart = 3 ∧
    txsCode .ok = 0 ∧ txsCode .refusedTooLong = 1 ∧
    (∀ view a d, ∃ fs, encode view (.txTransmit a d) = .command 0 fs) ∧
    (∀ view a c q, ∃ fs, encode view (.txRemoteAt a c q) = .command 1 fs)
end

