-- ==== Sys2Proof/Laws/State.lean ====
section
/-! SUPPORT. What each field reads after each named update of the state and of the registers. -/

namespace Sys2Proof.Machine

@[simp] theorem Rx.cleanIdle_ps : Rx.cleanIdle.ps = .idle := rfl

@[simp] theorem Rx.beginFrame_ps (r : Rx) : r.beginFrame.ps = .len := rfl

@[simp] theorem Rx.cleanIdle_lhv : Rx.cleanIdle.lhv = false := rfl

@[simp] theorem Rx.beginFrame_lhv (r : Rx) : r.beginFrame.lhv = false := rfl

@[simp] theorem Rx.cleanIdle_len : Rx.cleanIdle.len = 0 := rfl

@[simp] theorem Rx.beginFrame_len (r : Rx) : r.beginFrame.len = 0 := rfl

@[simp] theorem Rx.cleanIdle_rem : Rx.cleanIdle.rem = 0 := rfl

@[simp] theorem Rx.beginFrame_rem (r : Rx) : r.beginFrame.rem = 0 := rfl

@[simp] theorem Rx.cleanIdle_sum : Rx.cleanIdle.sum = 0 := rfl

@[simp] theorem Rx.beginFrame_sum (r : Rx) : r.beginFrame.sum = 0 := rfl

@[simp] theorem Rx.cleanIdle_escp : Rx.cleanIdle.escp = false := rfl

@[simp] theorem Rx.beginFrame_escp (r : Rx) : r.beginFrame.escp = false := rfl

@[simp] theorem Rx.cleanIdle_buf : Rx.cleanIdle.buf = [] := rfl

@[simp] theorem Rx.beginFrame_buf (r : Rx) : r.beginFrame.buf = [] := rfl

@[simp] theorem Rx.clear_eq (r : Rx) : r.clear = Rx.cleanIdle := rfl

@[simp] theorem Rx.view_ps (r : Rx) : r.view.ps = r.ps := rfl

@[simp] theorem Rx.view_lhv (r : Rx) : r.view.lhv = r.lhv := rfl

@[simp] theorem Rx.view_escp (r : Rx) : r.view.escp = r.escp := rfl

@[simp] theorem State.resetWith_cfg (c : Config) : (State.resetWith c).cfg = c := rfl

@[simp] theorem State.resetWith_rx (c : Config) : (State.resetWith c).rx = Rx.cleanIdle := rfl

@[simp] theorem State.resetWith_outStream (c : Config) : (State.resetWith c).outStream = [] := rfl

@[simp] theorem State.resetWith_out (c : Config) : (State.resetWith c).out = .none := rfl

@[simp] theorem State.resetWith_pending (c : Config) : (State.resetWith c).pending = [] := rfl

@[simp] theorem State.emitRx_cfg (o : Rx × RxOut) (s : State) : (s.emitRx o).cfg = s.cfg := rfl

@[simp] theorem State.emitRx_rx (o : Rx × RxOut) (s : State) : (s.emitRx o).rx = o.1 := rfl

@[simp] theorem State.emitRx_outStream (o : Rx × RxOut) (s : State) : (s.emitRx o).outStream = s.outStream := rfl

@[simp] theorem State.emitRx_out (o : Rx × RxOut) (s : State) : (s.emitRx o).out = .rx o.2 := rfl

@[simp] theorem State.emitRx_pending (o : Rx × RxOut) (s : State) : (s.emitRx o).pending = s.pending := rfl

@[simp] theorem State.emitChunk_cfg (o : Rx × List RxOut) (s : State) : (s.emitChunk o).cfg = s.cfg := rfl

@[simp] theorem State.emitChunk_rx (o : Rx × List RxOut) (s : State) : (s.emitChunk o).rx = o.1 := rfl

@[simp] theorem State.emitChunk_outStream (o : Rx × List RxOut) (s : State) : (s.emitChunk o).outStream = s.outStream := rfl

@[simp] theorem State.emitChunk_out (o : Rx × List RxOut) (s : State) : (s.emitChunk o).out = .rxChunk o.2 := rfl

@[simp] theorem State.emitChunk_pending (o : Rx × List RxOut) (s : State) : (s.emitChunk o).pending = s.pending := rfl

@[simp] theorem State.emit_cfg (o : StepOut) (s : State) : (s.emit o).cfg = s.cfg := rfl

@[simp] theorem State.emit_rx (o : StepOut) (s : State) : (s.emit o).rx = s.rx := rfl

@[simp] theorem State.emit_outStream (o : StepOut) (s : State) : (s.emit o).outStream = s.outStream := rfl

@[simp] theorem State.emit_out (o : StepOut) (s : State) : (s.emit o).out = o := rfl

@[simp] theorem State.emit_pending (o : StepOut) (s : State) : (s.emit o).pending = s.pending := rfl

@[simp] theorem State.quiet_cfg (s : State) : s.quiet.cfg = s.cfg := rfl

@[simp] theorem State.quiet_rx (s : State) : s.quiet.rx = s.rx := rfl

@[simp] theorem State.quiet_outStream (s : State) : s.quiet.outStream = s.outStream := rfl

@[simp] theorem State.quiet_pending (s : State) : s.quiet.pending = s.pending := rfl

@[simp] theorem State.quiet_out (s : State) : s.quiet.out = .none := rfl

@[simp] theorem State.emitFrame_cfg (o : TxStatus × List Byte) (s : State) : (s.emitFrame o).cfg = s.cfg := by
  rcases o with ⟨_ | _, w⟩ <;> rfl

@[simp] theorem State.emitFrame_rx (o : TxStatus × List Byte) (s : State) : (s.emitFrame o).rx = s.rx := by
  rcases o with ⟨_ | _, w⟩ <;> rfl

@[simp] theorem State.emitFrame_pending (o : TxStatus × List Byte) (s : State) : (s.emitFrame o).pending = s.pending := by
  rcases o with ⟨_ | _, w⟩ <;> rfl

@[simp] theorem State.emitFrame_ok (w : List Byte) (s : State) :
    s.emitFrame (.ok, w) = { s with outStream := s.outStream ++ w, out := .tx .ok w } := rfl

@[simp] theorem State.emitFrame_refused (w : List Byte) (s : State) :
    s.emitFrame (.refusedTooLong, w) = { s with out := .tx .refusedTooLong [] } := rfl

/-- One spec lemma for the one entry of a framing error (60_exceptions.md R254). -/
theorem Rx.raise_spec (why : Reason) (r : Rx) :
    (r.raise why).2 = ⟨.invalid why, why.warn⟩ ∧
      (r.raise why).1 = { Rx.cleanIdle with ps := if why = .unexpectedStart then .len else .idle } := by
  cases why <;> exact ⟨rfl, rfl⟩

@[simp] theorem Rx.raise_unexpectedStart (r : Rx) :
    r.raise .unexpectedStart = (r.beginFrame, ⟨.invalid .unexpectedStart, true⟩) := rfl

@[simp] theorem Rx.raise_lengthOverrun (r : Rx) :
    r.raise .lengthOverrun = (Rx.cleanIdle, ⟨.invalid .lengthOverrun, false⟩) := rfl

@[simp] theorem Rx.raise_checksumMismatch (r : Rx) :
    r.raise .checksumMismatch = (Rx.cleanIdle, ⟨.invalid .checksumMismatch, false⟩) := rfl

/-- What taking the host's next move can do. -/
theorem State.fetch_spec (s : State) :
    (s.pending = [] ∧ s.fetch = none) ∨
      ∃ m rest, s.pending = m :: rest ∧ s.fetch = some (m, { s with pending := rest }) := by
  rcases h : s.pending with _ | ⟨m, rest⟩
  · exact .inl ⟨rfl, by simp [State.fetch, h]⟩
  · exact .inr ⟨m, rest, rfl, by simp [State.fetch, h]⟩

@[simp] theorem State.fetch_nil {s : State} (h : s.pending = []) : s.fetch = none := by simp [State.fetch, h]

@[simp] theorem State.fetch_cons {s : State} {m : HostMove} {rest : List HostMove} (h : s.pending = m :: rest) :
    s.fetch = some (m, { s with pending := rest }) := by simp [State.fetch, h]

end Sys2Proof.Machine
end

