-- ==== Sys2Proof/Laws/Memory.lean ====
section
/-! SUPPORT. The frame buffer: what its operations read and write, and that they keep its form. -/

namespace Sys2Proof.Machine

@[simp] theorem Memory.append_length (m : Memory) (v : Byte) : (m.append v).length = m.length + 1 := by
  simp [Memory.append]

/-- The whole-buffer read of RX_CSUM gives the buffer (20_memory.md R52). -/
@[simp] theorem Memory.read_whole (m : Memory) : m.read 0 m.length = m := by simp [Memory.read]

/-- A read after the append, at the appended index. -/
@[simp] theorem Memory.byteAt_append_new (m : Memory) (v : Byte) : (m.append v).byteAt m.length = some v := by
  simp [Memory.append, Memory.byteAt]

/-- The append leaves every index below alone. -/
theorem Memory.byteAt_append_old (m : Memory) (v : Byte) {k : Nat} (h : k < m.length) :
    (m.append v).byteAt k = m.byteAt k := by
  simp [Memory.append, Memory.byteAt, List.getElem?_append_left h]

/-- Nothing exists at or beyond the length (93 U8). -/
theorem Memory.byteAt_beyond (m : Memory) {k : Nat} (h : m.length ≤ k) : m.byteAt k = none := by
  simp [Memory.byteAt, h]

/-- The append keeps the buffer's form where there is room, which there is in every state in which RX_DATA is
selected (20_memory.md R52). -/
theorem Memory.append_wf {maxLen : Word16} {m : Memory} (v : Byte) (h : m.length < maxLen.toNat) :
    Memory.wf maxLen (m.append v) := by
  simp only [Memory.wf, Memory.append_length]
  omega

/-- The empty buffer has the form, for every `MAX_LEN`. -/
theorem Memory.nil_wf (maxLen : Word16) : Memory.wf maxLen [] := Nat.zero_le _

/-- The cells' addresses rise one by one. -/
theorem Memory.cellsFrom_addresses (m : Memory) (a : Nat) :
    (Memory.cellsFrom a m).map Prod.fst = List.range' a m.length := by
  induction m generalizing a with
  | nil => rfl
  | cons b m ih => simp [Memory.cellsFrom, ih, List.range'_succ]

/-- The cells' addresses strictly rise. -/
theorem Memory.cells_sorted (m : Memory) : ((Memory.cells m).map Prod.fst).Pairwise (· < ·) := by
  rw [Memory.cells, Memory.cellsFrom_addresses]
  exact List.pairwise_lt_range'

/-- The cells determine the buffer. -/
theorem Memory.cellsFrom_bytes (m : Memory) (a : Nat) : (Memory.cellsFrom a m).map Prod.snd = m := by
  induction m generalizing a with
  | nil => rfl
  | cons b m ih => simp [Memory.cellsFrom, ih]

/-- The buffer's form holds at reset. -/
theorem reset_buf_wf (c : Config) : Memory.wf c.maxLen (State.resetWith c).rx.buf := Nat.zero_le _

end Sys2Proof.Machine
end

