-- ==== Sys2Proof/Laws/Operands.lean ====
section
/-! SUPPORT. The operand forms and the sums as natural numbers. -/

namespace Sys2Proof.Machine

/-- `{v, LEN[7:0]}` as a number (42 R160). -/
theorem lenWithHigh_toNat (l : Word16) (v : Byte) : (lenWithHigh l v).toNat = v.toNat * 256 + l.toNat % 256 := by
  unfold lenWithHigh
  rw [BitVec.toNat_append, BitVec.extractLsb'_toNat, ← Nat.shiftLeft_add_eq_or_of_lt (Nat.mod_lt _ (by decide)),
    Nat.shiftLeft_eq]
  simp

/-- `{LEN[15:8], v}` as a number (42 R162). -/
theorem lenWithLow_toNat (l : Word16) (v : Byte) : (lenWithLow l v).toNat = l.toNat / 256 * 256 + v.toNat := by
  have := l.isLt
  unfold lenWithLow
  rw [BitVec.toNat_append, BitVec.extractLsb'_toNat, ← Nat.shiftLeft_add_eq_or_of_lt v.isLt, Nat.shiftLeft_eq,
    Nat.shiftRight_eq_div_pow]
  omega

/-- The two length bytes of a count that fits 16 bits (43 R202). -/
theorem length_bytes {n : Nat} (h : n < 65536) : (lengthHi n).toNat * 256 + (lengthLo n).toNat = n := by
  simp only [lengthHi, lengthLo, BitVec.toNat_ofNat]
  omega

/-- `logicalByte` undoes itself. -/
@[simp] theorem logicalByte_logicalByte (e : Bool) (b : Byte) : logicalByte e (logicalByte e b) = b := by
  cases e <;> simp [logicalByte]

@[simp] theorem logicalByte_false (b : Byte) : logicalByte false b = b := rfl

@[simp] theorem byteSum_append (as bs : List Byte) : byteSum (as ++ bs) = byteSum as + byteSum bs := by
  induction as with
  | nil => simp [byteSum]
  | cons a as ih => simp [byteSum, ih, Nat.add_assoc]

/-- The sum of R130 in terms of the library's sum. -/
theorem byteSum_eq_sum (d : List Byte) : byteSum d = (d.map BitVec.toNat).sum := by
  induction d with
  | nil => rfl
  | cons b d ih => simp [byteSum, ih]

/-- CKS_GEN as a number: the subtraction never borrows (41 R130). -/
theorem checksumOf_toNat (d : List Byte) : (checksumOf d).toNat = 255 - byteSum d % 256 := by
  simp [checksumOf, Params.cksTarget, BitVec.toNat_sub]
  omega

/-- The test on the running sum as numbers (41 R134). -/
theorem sumOk_iff (sum v : Byte) : sumOk sum v = true ↔ (sum.toNat + v.toNat) % 256 = 255 := by
  simp [sumOk, Params.cksTarget, ← BitVec.toNat_inj]

/-- One accumulation as numbers (41 R134). -/
theorem sumStep_toNat (sum v : Byte) : (sumStep sum v).toNat = (sum.toNat + v.toNat) % 256 := by simp [sumStep]

end Sys2Proof.Machine
end

