-- ==== Sys2Proof/Laws/Receive.lean ====
section
/-! SUPPORT. What one receive operation can do, said once, and the chunk as a fold. -/

namespace Sys2Proof.Machine

/-- Everything FEED can do (42 R150): the seven cases, each with what selects it. -/
theorem Rx.feed_spec (m : Word16) (b : Byte) (r : Rx) :
    (b = Params.start ∧ r.feed m b = r.startMarker) ∨
      (b ≠ Params.start ∧ r.ps = .idle ∧ r.feed m b = r.drop) ∨
      (b ≠ Params.start ∧ r.ps ≠ .idle ∧ r.escp = false ∧ b = Params.esc ∧ r.feed m b = r.escapeMarker) ∨
      (givesLogical r.view b = true ∧ r.ps = .len ∧ r.lhv = false ∧
        r.feed m b = r.lengthHigh (logicalByte r.escp b)) ∨
      (givesLogical r.view b = true ∧ r.ps = .len ∧ r.lhv = true ∧
        r.feed m b = r.lengthLow m (logicalByte r.escp b)) ∨
      (givesLogical r.view b = true ∧ r.ps = .payload ∧ r.feed m b = r.dataByte (logicalByte r.escp b)) ∨
      (givesLogical r.view b = true ∧ r.ps = .csum ∧ r.feed m b = r.checksumByte (logicalByte r.escp b)) := by
  rcases r with ⟨ps, lhv, len, rem, sum, escp, buf⟩
  unfold Rx.feed givesLogical
  by_cases h1 : b = Params.start
  · exact .inl ⟨h1, by simp [h1]⟩
  by_cases h2 : escp = false ∧ b = Params.esc
  · obtain ⟨rfl, rfl⟩ := h2
    cases ps <;> simp [h1]
  · have h3 : escp = true ∨ b ≠ Params.esc := by
      cases escp <;> simp_all
    cases ps <;> cases lhv <;> simp [h1, h2, h3]

/-- The operation map selects the same case as the dispatch of FEED (30 R88, 42 R150), on the registers. -/
theorem Rx.decodeRaw_spec (view : RxView) (b : Byte) :
    (b = Params.start ∧ decodeRaw view b = .rxStart) ∨
      (b ≠ Params.start ∧ view.ps = .idle ∧ decodeRaw view b = .rxDrop b) ∨
      (b ≠ Params.start ∧ view.ps ≠ .idle ∧ view.escp = false ∧ b = Params.esc ∧ decodeRaw view b = .rxEsc) ∨
      (givesLogical view b = true ∧ view.ps = .len ∧ view.lhv = false ∧
        decodeRaw view b = .rxLenHi (logicalByte view.escp b)) ∨
      (givesLogical view b = true ∧ view.ps = .len ∧ view.lhv = true ∧
        decodeRaw view b = .rxLenLo (logicalByte view.escp b)) ∨
      (givesLogical view b = true ∧ view.ps = .payload ∧ decodeRaw view b = .rxData (logicalByte view.escp b)) ∨
      (givesLogical view b = true ∧ view.ps = .csum ∧ decodeRaw view b = .rxCsum (logicalByte view.escp b)) := by
  rcases view with ⟨ps, lhv, escp⟩
  unfold decodeRaw byteClass givesLogical
  by_cases h1 : b = Params.start
  · exact .inl ⟨h1, by simp [h1]⟩
  by_cases h2 : b = Params.esc
  · subst h2
    have h3 : Params.esc ≠ Params.start := by decide
    cases ps <;> cases lhv <;> cases escp <;> simp [h3]
  · cases ps <;> cases lhv <;> simp [h1, h2]

@[simp] theorem Rx.feedBytes_nil (m : Word16) (r : Rx) : Rx.feedBytes m [] r = (r, []) := rfl

theorem Rx.feedBytes_cons (m : Word16) (b : Byte) (bs : List Byte) (r : Rx) :
    Rx.feedBytes m (b :: bs) r =
      ((Rx.feedBytes m bs (r.feed m b).1).1, (r.feed m b).2 :: (Rx.feedBytes m bs (r.feed m b).1).2) := rfl

/-- One output per byte (42 R176). -/
@[simp] theorem Rx.feedBytes_length (m : Word16) (bs : List Byte) (r : Rx) :
    (Rx.feedBytes m bs r).2.length = bs.length := by
  induction bs generalizing r with
  | nil => rfl
  | cons b bs ih => simp [Rx.feedBytes_cons, ih]

/-- The registers are threaded through a cut of a chunk (20_memory.md R68). -/
theorem Rx.feedBytes_append (m : Word16) (as bs : List Byte) (r : Rx) :
    Rx.feedBytes m (as ++ bs) r =
      ((Rx.feedBytes m bs (Rx.feedBytes m as r).1).1,
        (Rx.feedBytes m as r).2 ++ (Rx.feedBytes m bs (Rx.feedBytes m as r).1).2) := by
  induction as generalizing r with
  | nil => rfl
  | cons a as ih => simp [Rx.feedBytes_cons, ih]

/-- No operation stops: every meaning answers a next state (60_exceptions.md R260). -/
theorem exec_next (i : Instr) (s : State) : ∃ t, exec i s = .next t := by cases i <;> exact ⟨_, rfl⟩

end Sys2Proof.Machine
end

