-- ==== Sys2Proof/Laws/PerInstr.lean ====
section
/-! SUPPORT. Per operation, as syntax: a raw start marker is handed over for RX_START and for no other operation
(40_escape.md R110: "the start marker is the only byte that triggers frame-boundary detection in the raw, un-escaped
inbound stream"). -/

namespace Sys2Proof.Laws.StartBelongsToRxStart

/-- In registers that allow the operation, it is encoded as a raw `START` iff it is RX_START. -/
def Statement (i : Instr) : Prop :=
  ∀ view : RxView, i.wellFormed = true → i.selectable view = true → (encode view i = .raw Params.start ↔ i = .rxStart)

theorem rxStart : Statement (.rxStart) := fun _ _ _ => ⟨fun _ => rfl, fun _ => rfl⟩

theorem rxDrop (b : Byte) : Statement (.rxDrop b) := by
  intro view hw _
  simpa [encode, Instr.wellFormed] using hw

theorem rxEsc : Statement (.rxEsc) := by
  intro view _ _
  simp [encode, Params.esc, Params.start]

theorem rxLenHi (v : Byte) : Statement (.rxLenHi v) := by
  intro view _ hs
  simp only [Instr.selectable, givesLogical, Bool.and_eq_true, bne_iff_ne] at hs
  simp [encode, hs.2.1]

theorem rxLenLo (v : Byte) : Statement (.rxLenLo v) := by
  intro view _ hs
  simp only [Instr.selectable, givesLogical, Bool.and_eq_true, bne_iff_ne] at hs
  simp [encode, hs.2.1]

theorem rxData (v : Byte) : Statement (.rxData v) := by
  intro view _ hs
  simp only [Instr.selectable, givesLogical, Bool.and_eq_true, bne_iff_ne] at hs
  simp [encode, hs.2.1]

theorem rxCsum (v : Byte) : Statement (.rxCsum v) := by
  intro view _ hs
  simp only [Instr.selectable, givesLogical, Bool.and_eq_true, bne_iff_ne] at hs
  simp [encode, hs.2.1]

theorem escByte7E : Statement (.escByte7E) := by
  intro view _ _
  simp [encode]

theorem escByte7D : Statement (.escByte7D) := by
  intro view _ _
  simp [encode]

theorem escByte11 : Statement (.escByte11) := by
  intro view _ _
  simp [encode]

theorem escByte13 : Statement (.escByte13) := by
  intro view _ _
  simp [encode]

theorem escBytePass (o : Byte) : Statement (.escBytePass o) := by
  intro view _ _
  simp [encode]

theorem escape (bs : List Byte) : Statement (.escape bs) := by
  intro view _ _
  simp [encode]

theorem unescStep (e : Bool) (b : Byte) : Statement (.unescStep e b) := by
  intro view _ _
  simp [encode]

theorem unescape (e : Bool) (bs : List Byte) : Statement (.unescape e bs) := by
  intro view _ _
  simp [encode]

theorem cksGen (d : List Byte) : Statement (.cksGen d) := by
  intro view _ _
  simp [encode]

theorem cksChk (d : List Byte) (c : Byte) : Statement (.cksChk d c) := by
  intro view _ _
  simp [encode]

theorem feed (b : Byte) : Statement (.feed b) := by
  intro view _ _
  simp [encode]

theorem feedChunk (bs : List Byte) : Statement (.feedChunk bs) := by
  intro view _ _
  simp [encode]

theorem txFrame (p : List Byte) : Statement (.txFrame p) := by
  intro view _ _
  simp [encode]

theorem txTransmit (dest : LongAddr) (data : List Byte) : Statement (.txTransmit dest data) := by
  intro view _ _
  simp [encode]

theorem txRemoteAt (dest : LongAddr) (command : AtCommand) (parameter : List Byte) : Statement (.txRemoteAt dest command parameter) := by
  intro view _ _
  simp [encode]

theorem reset : Statement (.reset) := by
  intro view _ _
  simp [encode]

end Sys2Proof.Laws.StartBelongsToRxStart
end

