-- ==== Sys2Proof/Laws/Step.lean ====
section
/-! SUPPORT. What a step can do, said once: every statement about steps goes through it. -/

namespace Sys2Proof.Machine

/-- A step that answers a next state was quiet, or ran the operation decoded from the host's next move. -/
theorem step_next {s t : State} (h : step s = .next t) :
    (s.pending = [] ∧ t = s.quiet) ∨
      ∃ m rest i, s.pending = m :: rest ∧ decode s.rx.view m = .ok i ∧ exec i { s with pending := rest } = .next t := by
  rcases State.fetch_spec s with ⟨hp, hf⟩ | ⟨m, rest, hp, hf⟩
  · simp only [step, hf, Host.Outcome.next.injEq] at h
    exact .inl ⟨hp, h.symm⟩
  · simp only [step, hf] at h
    split at h
    · exact .inr ⟨m, rest, _, hp, ‹_›, h⟩
    · cases h

end Sys2Proof.Machine
end

