-- ==== Sys2Proof/Laws/Wire.lean ====
section
/-! SUPPORT. What the shared operations of the escaper, the checksum and the builder can do, each said once. -/

namespace Sys2Proof.Machine

/-- Everything the un-escape step can do (40 R116): a start, a remembered escape, a byte. -/
theorem unescapeStep_spec (e : Bool) (b : Byte) :
    (b = Params.start ∧ unescapeStep e b = (false, .tStart)) ∨
      (b = Params.esc ∧ e = false ∧ unescapeStep e b = (true, .tNone)) ∨
      (b ≠ Params.start ∧ (e = true ∨ b ≠ Params.esc) ∧ unescapeStep e b = (false, .tByte (logicalByte e b))) := by
  unfold unescapeStep
  by_cases h1 : b = Params.start
  · exact .inl ⟨h1, if_pos h1⟩
  by_cases h2 : e = false ∧ b = Params.esc
  · exact .inr (.inl ⟨h2.2, h2.1, by rw [if_neg h1, if_pos h2]⟩)
  · refine .inr (.inr ⟨h1, ?_, by rw [if_neg h1, if_neg h2]⟩)
    cases e <;> simp_all

/-- The pair of a reserved byte holds no `START`, and exclusive-or undoes itself (40 R112). -/
theorem partner_ne_start {o : Byte} (h : Params.reserved o = true) : o ^^^ Params.escXor ≠ Params.start := by
  simp only [Params.reserved, Bool.or_eq_true, beq_iff_eq] at h
  rcases h with ((rfl | rfl) | rfl) | rfl <;> decide

/-- Everything ESC_BYTE can do (40 R112). -/
theorem escByte_spec (o : Byte) :
    (Params.reserved o = true ∧ escByte o = [Params.esc, o ^^^ Params.escXor]) ∨
      (Params.reserved o = false ∧ escByte o = [o]) := by
  cases h : Params.reserved o <;> simp [escByte, h]

@[simp] theorem escapeBytes_nil : escapeBytes [] = [] := rfl

theorem escapeBytes_cons (o : Byte) (bs : List Byte) : escapeBytes (o :: bs) = escByte o ++ escapeBytes bs := rfl

@[simp] theorem unescapeTokens_nil (e : Bool) : unescapeTokens e [] = ([], e) := rfl

@[simp] theorem Token.consTo_tNone (ts : List Token) : Token.tNone.consTo ts = ts := rfl

@[simp] theorem Token.consTo_tStart (ts : List Token) : Token.tStart.consTo ts = .tStart :: ts := rfl

@[simp] theorem Token.consTo_tByte (v : Byte) (ts : List Token) : (Token.tByte v).consTo ts = .tByte v :: ts := rfl

/-- The check in terms of numbers (41 R132). -/
theorem checkChecksum_iff (d : List Byte) (c : Byte) :
    checkChecksum d c = .valid ↔ (byteSum d + c.toNat) % 256 = 255 := by
  simp [checkChecksum, Params.cksTarget]

/-- Everything TX_FRAME can do (43 R202, R204). -/
theorem txFrame_spec (cfg : Config) (p : List Byte) :
    (p.length ≤ cfg.maxLen.toNat ∧ txFrame cfg p = (.ok, wireFrame p)) ∨
      (cfg.maxLen.toNat < p.length ∧ txFrame cfg p = (.refusedTooLong, [])) := by
  unfold txFrame
  by_cases h : cfg.maxLen.toNat < p.length
  · exact .inr ⟨h, if_pos h⟩
  · exact .inl ⟨Nat.le_of_not_lt h, if_neg h⟩

/-- The length of the frame data of a transmit request (43 R212). -/
@[simp] theorem transmitData_length (cfg : Config) (a : LongAddr) (d : List Byte) :
    (transmitData cfg a d).length = 14 + d.length := by simp [transmitData, LongAddr.bytes]; omega

/-- The length of the frame data of a remote-AT request (43 R222). -/
@[simp] theorem remoteAtData_length (cfg : Config) (a : LongAddr) (c : AtCommand) (q : List Byte) :
    (remoteAtData cfg a c q).length = 15 + q.length := by simp [remoteAtData, LongAddr.bytes, AtCommand.bytes]; omega

end Sys2Proof.Machine
end

