-- ==== Sys2Proof/Tests/Slice0.lean ====
section
/-! SUPPORT. Tests of single steps, expected values from spec/95_test_vectors.md (section and row in each comment) or
written out from the encodings of spec/30_encoding.md; and for every statement with hypotheses a witness that they
can be met, clause by clause. -/

namespace Sys2Proof.Tests
open Sys2Proof Sys2Proof.Machine

/-- The state after reset with other receive registers. -/
def withRx (r : Rx) : State := { State.reset with rx := r }

/-- The state after reset with another `MAX_LEN` and other receive registers. -/
def withMax (m : Word16) (r : Rx) : State := { withRx r with cfg := { Params.atReset with maxLen := m } }

/-- `PS` = `LEN` with `LHV`, `LEN`, `ESCP`. -/
def inLen (lhv : Bool) (len : Word16) (escp : Bool) : Rx := { Rx.cleanIdle with ps := .len, lhv := lhv, len := len, escp := escp }

/-- `PS` = `PAYLOAD` with `LEN`, `REM`, `SUM`, `ESCP`, `BUF`. -/
def inData (len rem : Word16) (sum : Byte) (escp : Bool) (buf : List Byte) : Rx := ⟨.payload, false, len, rem, sum, escp, buf⟩

/-- `PS` = `CSUM` with `LEN`, `SUM`, `ESCP`, `BUF`. -/
def inCsum (len : Word16) (sum : Byte) (escp : Bool) (buf : List Byte) : Rx := ⟨.csum, false, len, 0, sum, escp, buf⟩

/-- What one operation leaves in the registers and hands over. -/
def run (i : Instr) (s : State) : Option (Rx × StepOut) :=
  match exec i s with
  | .next t => some (t.rx, t.out)
  | _ => none

/-- What one operation hands over. -/
def outOf (i : Instr) : Option StepOut := (run i State.reset).map Prod.snd

/-- The registers and output of one machine step. -/
def stepOf (s : State) : Option (Rx × StepOut × List Byte) :=
  match step s with
  | .next t => some (t.rx, t.out, t.outStream)
  | _ => none

/-- `Incomplete` without `WARN`. -/
def quietRx : StepOut := .rx ⟨.incomplete, false⟩

/-- The address `A` of spec/95. -/
def addrA : LongAddr := ⟨0x00, 0x13, 0xA2, 0x00, 0x40, 0x0A, 0x01, 0x27⟩

/-! Well-formedness: an ill-formed term for each check. -/

theorem test_wf_drop_refuses_start : Instr.wellFormed (.rxDrop 0x7E) = false := by decide
theorem test_wf_drop_takes_escape_marker : Instr.wellFormed (.rxDrop 0x7D) = true := by decide
theorem test_wf_pass_refuses_reserved :
    [0x7E, 0x7D, 0x11, 0x13].map (fun o => Instr.wellFormed (.escBytePass o)) = [false, false, false, false] := by decide
theorem test_wf_pass_takes_neighbours :
    [0x10, 0x12, 0x7C, 0x7F].map (fun o => Instr.wellFormed (.escBytePass o)) = [true, true, true, true] := by decide

/-! Decoding: words written out from 30 R81, R83, R88, R98. -/

/-- 30 R88 rows 1 to 3: START, an Idle byte (also the escape marker), the escape marker in a frame. -/
theorem test_decode_rx_markers :
    decode ⟨.csum, false, true⟩ (.raw 0b01111110) = .ok .rxStart ∧
      decode ⟨.idle, false, false⟩ (.raw 0b01111101) = .ok (.rxDrop 0b01111101) ∧
      decode ⟨.len, true, false⟩ (.raw 0b01111101) = .ok .rxEsc := by decide

/-- 30 R88 rows 4 to 7, the byte plain and with a pending escape. -/
theorem test_decode_rx_logical :
    decode ⟨.len, false, true⟩ (.raw 0b00110001) = .ok (.rxLenHi 0b00010001) ∧
      decode ⟨.len, true, false⟩ (.raw 0b00000100) = .ok (.rxLenLo 0b00000100) ∧
      decode ⟨.payload, false, true⟩ (.raw 0b01111101) = .ok (.rxData 0b01011101) ∧
      decode ⟨.csum, false, false⟩ (.raw 0b11100000) = .ok (.rxCsum 0b11100000) := by decide

/-- 30 R83: the five rows of format E. -/
theorem test_decode_logical :
    decode ⟨.idle, false, false⟩ (.logical 0b01111110) = .ok .escByte7E ∧
      decode ⟨.idle, false, false⟩ (.logical 0b01111101) = .ok .escByte7D ∧
      decode ⟨.idle, false, false⟩ (.logical 0b00010001) = .ok .escByte11 ∧
      decode ⟨.idle, false, false⟩ (.logical 0b00010011) = .ok .escByte13 ∧
      decode ⟨.idle, false, false⟩ (.logical 0b01011110) = .ok (.escBytePass 0b01011110) := by decide

/-- 30 R98: the two commands, each field in its place. -/
theorem test_decode_commands :
    decode ⟨.idle, false, false⟩ (.command 0b0 [0x00, 0x13, 0xA2, 0x00, 0x40, 0x0A, 0x01, 0x27, 0x48]) =
        .ok (.txTransmit addrA [0x48]) ∧
      decode ⟨.idle, false, false⟩ (.command 0b1 [0x00, 0x13, 0xA2, 0x00, 0x40, 0x0A, 0x01, 0x27, 0x44, 0x30, 0x05]) =
        .ok (.txRemoteAt addrA ⟨0x44, 0x30⟩ [0x05]) := by decide

/-- 10 R37: a fixed field of another width cannot be expressed. -/
theorem test_decode_refuses_short_fields :
    decode ⟨.idle, false, false⟩ (.command 0b0 [1, 2, 3, 4, 5, 6, 7]) = .error .shortAddress ∧
      decode ⟨.idle, false, false⟩ (.command 0b1 [1, 2, 3, 4, 5, 6, 7, 8, 9]) = .error .shortCommand := by decide

/-- 30 R101: the called operations. -/
theorem test_decode_calls :
    decode ⟨.idle, false, false⟩ (.call (.escape [0x42])) = .ok (.escape [0x42]) ∧
      decode ⟨.idle, false, false⟩ (.call (.unescStep true 0x41)) = .ok (.unescStep true 0x41) ∧
      decode ⟨.idle, false, false⟩ (.call (.unescape false [0x42])) = .ok (.unescape false [0x42]) ∧
      decode ⟨.idle, false, false⟩ (.call (.cksGen [0x42])) = .ok (.cksGen [0x42]) ∧
      decode ⟨.idle, false, false⟩ (.call (.cksChk [0x42] 0xBD)) = .ok (.cksChk [0x42] 0xBD) ∧
      decode ⟨.idle, false, false⟩ (.call (.feed 0x42)) = .ok (.feed 0x42) ∧
      decode ⟨.idle, false, false⟩ (.call (.feedChunk [0x42])) = .ok (.feedChunk [0x42]) ∧
      decode ⟨.idle, false, false⟩ (.call (.txFrame [0x42])) = .ok (.txFrame [0x42]) ∧
      decode ⟨.idle, false, false⟩ (.call .reset) = .ok .reset := by decide

/-- The words of spec/opcode_table.json as log entry 12 reads them. -/
theorem test_table_words :
    decodeTableWord 8 0x7E = some .rxStart ∧ decodeTableWord 8 0x7D = some .rxEsc ∧
      decodeTableWord 8 0x11 = some .escByte11 ∧ decodeTableWord 8 0x13 = some .escByte13 ∧
      decodeTableWord 8 0x00 = some (.txTransmit ⟨0, 0, 0, 0, 0, 0, 0, 0⟩ []) ∧
      decodeTableWord 8 0x01 = some (.txRemoteAt ⟨0, 0, 0, 0, 0, 0, 0, 0⟩ ⟨0, 0⟩ []) ∧
      decodeTableWord 8 0x04 = some (.rxDrop 0x04) ∧ decodeTableWord 0 0 = none := by decide

/-- The word placed is the next thing the step runs: a start marker; an escape marker, for which a frame is begun. -/
theorem test_place_word :
    stepOf (State.reset.withFetchWord 8 0x7E) = some (inLen false 0 false, quietRx, []) ∧
      stepOf (State.reset.withFetchWord 8 0x7D) = some (inLen false 0 true, quietRx, []) ∧
      stepOf (State.reset.withFetchWord 8 0x13) = some (Rx.cleanIdle, .bytes [0x7D, 0x33], []) := by decide

/-! Single steps of the receiver (95, 2.3.1). -/

/-- Rows 1 and 4. -/
theorem test_rx_start :
    run .rxStart State.reset = some (inLen false 0 false, quietRx) ∧
      run .rxStart (withRx (inData 3 2 0xAA false [0xAA])) =
        some (inLen false 0 false, .rx ⟨.invalid .unexpectedStart, true⟩) := by decide

/-- Row 8. -/
theorem test_rx_drop : run (.rxDrop 0x7D) State.reset = some (Rx.cleanIdle, quietRx) := by decide

/-- Row 13. -/
theorem test_rx_esc :
    run .rxEsc (withRx (inCsum 1 0x81 false [0x81])) = some (inCsum 1 0x81 true [0x81], quietRx) := by decide

/-- Row 17: after the escape, 0x31 is 0x11. -/
theorem test_rx_len_hi :
    run (.rxLenHi 0x11) (withRx (inLen false 0 true)) = some (inLen true 0x1100 false, quietRx) := by decide

/-- Rows 20 and 19: the longest length, and zero. -/
theorem test_rx_len_lo_accepts :
    run (.rxLenLo 0x00) (withRx (inLen true 0x0100 false)) = some (inData 256 256 0 false [], quietRx) ∧
      run (.rxLenLo 0x00) (withRx (inLen true 0x0000 false)) = some (inCsum 0 0 false [], quietRx) := by decide

/-- Row 21: one byte too long. -/
theorem test_rx_len_lo_overrun :
    run (.rxLenLo 0x01) (withRx (inLen true 0x0100 false)) =
      some (Rx.cleanIdle, .rx ⟨.invalid .lengthOverrun, false⟩) := by decide

/-- Row 25: the sum wraps, the last byte moves on. -/
theorem test_rx_data_last :
    run (.rxData 0xC0) (withRx (inData 2 1 0x42 false [0x42])) = some (inCsum 2 0x02 false [0x42, 0xC0], quietRx) := by
  decide

/-- Row 27: not the last byte, the escape cleared. -/
theorem test_rx_data_more :
    run (.rxData 0x5D) (withRx (inData 2 2 0 true [])) = some (inData 2 1 0x5D false [0x5D], quietRx) := by decide

/-- Row 29. -/
theorem test_rx_csum_complete :
    run (.rxCsum 0xE0) (withRx (inCsum 4 0x1F false [0x7E, 0x7D, 0x11, 0x13])) =
      some (Rx.cleanIdle, .rx ⟨.complete [0x7E, 0x7D, 0x11, 0x13], false⟩) := by decide

/-- Row 34. -/
theorem test_rx_csum_mismatch :
    run (.rxCsum 0x5E) (withRx (inCsum 1 0x81 false [0x81])) =
      some (Rx.cleanIdle, .rx ⟨.invalid .checksumMismatch, false⟩) := by decide

/-- Row 33: FEED undoes the pending escape. -/
theorem test_feed_escaped_checksum :
    run (.feed 0x5E) (withRx (inCsum 1 0x81 true [0x81])) = some (Rx.cleanIdle, .rx ⟨.complete [0x81], false⟩) := by decide

/-- Row 5: a raw START directly after an escape marker. -/
theorem test_feed_start_after_escape :
    run (.feed 0x7E) (withRx (inData 2 2 0 true [])) =
      some (inLen false 0 false, .rx ⟨.invalid .unexpectedStart, true⟩) := by decide

/-- S2 (95, 1): one mismatch, then one frame. -/
theorem test_feed_chunk_recovers :
    run (.feedChunk [0x7E, 0, 1, 0, 0xFA, 0x7E, 0, 1, 5, 0xFA]) State.reset =
      some (Rx.cleanIdle, .rxChunk [⟨.incomplete, false⟩, ⟨.incomplete, false⟩, ⟨.incomplete, false⟩,
        ⟨.incomplete, false⟩, ⟨.invalid .checksumMismatch, false⟩, ⟨.incomplete, false⟩, ⟨.incomplete, false⟩,
        ⟨.incomplete, false⟩, ⟨.incomplete, false⟩, ⟨.complete [5], false⟩]) := by decide

/-- P2 (95, 3), chunk 2: the pending escape is carried into the chunk and out of it. -/
theorem test_feed_chunk_carries_escape :
    run (.feedChunk [0x31, 0x7D]) (withRx (inData 2 2 0 true [])) =
      some (inData 2 1 0x11 true [0x11], .rxChunk [⟨.incomplete, false⟩, ⟨.incomplete, false⟩]) := by decide

/-! The escaper (95, 2.1). -/

/-- 2.1.1. -/
theorem test_esc_byte_reserved :
    [outOf .escByte7E, outOf .escByte7D, outOf .escByte11, outOf .escByte13] =
      [some (.bytes [0x7D, 0x5E]), some (.bytes [0x7D, 0x5D]), some (.bytes [0x7D, 0x31]),
        some (.bytes [0x7D, 0x33])] := by decide

/-- 2.1.1. -/
theorem test_esc_byte_pass :
    [outOf (.escBytePass 0x5E), outOf (.escBytePass 0x91)] = [some (.bytes [0x5E]), some (.bytes [0x91])] := by decide

/-- 2.1.2. -/
theorem test_escape :
    outOf (.escape [0x7C, 0x7D, 0x7E, 0x7F]) = some (.bytes [0x7C, 0x7D, 0x5D, 0x7D, 0x5E, 0x7F]) ∧
      outOf (.escape [0x7D, 0x5E]) = some (.bytes [0x7D, 0x5D, 0x5E]) := by decide

/-- 2.1.3: all three branches and the two corner cases. -/
theorem test_unesc_step :
    [outOf (.unescStep true 0x7E), outOf (.unescStep false 0x7D), outOf (.unescStep true 0x7D),
        outOf (.unescStep true 0x41), outOf (.unescStep false 0x11)] =
      [some (.unesc false .tStart), some (.unesc true .tNone), some (.unesc false (.tByte 0x5D)),
        some (.unesc false (.tByte 0x61)), some (.unesc false (.tByte 0x11))] := by decide

/-- 2.1.4. -/
theorem test_unescape :
    outOf (.unescape false [0x42, 0x7E, 0x43]) = some (.tokens [.tByte 0x42, .tStart, .tByte 0x43] false) ∧
      outOf (.unescape false [0x7D, 0x7D, 0x7D]) = some (.tokens [.tByte 0x5D] true) := by decide

/-- 40 R125: different raw sequences un-escape alike. -/
theorem test_unescape_not_injective :
    unescapedBytes [0x5D] = some [0x5D] ∧ unescapedBytes [0x7D, 0x7D] = some [0x5D] ∧
      unescapedBytes [0x61] = some [0x61] ∧ unescapedBytes [0x7D, 0x41] = some [0x61] := by decide

/-! The checksum (95, 2.2). -/

/-- 2.2.1. -/
theorem test_cks_gen :
    outOf (.cksGen []) = some (.checksum 0xFF) ∧ outOf (.cksGen [0x7E, 0x7D, 0x11, 0x13]) = some (.checksum 0xE0) := by
  decide

/-- 2.2.2. -/
theorem test_cks_chk :
    outOf (.cksChk [0x80, 0x80] 0xFF) = some (.check .valid) ∧ outOf (.cksChk [0] 0xFA) = some (.check .mismatch) := by
  decide

/-! The builder (95, 2.4). -/

/-- 2.4.1, the row of S3. -/
theorem test_tx_frame :
    outOf (.txFrame [0x7E, 0x7D, 0x11, 0x13]) =
      some (.tx .ok [0x7E, 0, 4, 0x7D, 0x5E, 0x7D, 0x5D, 0x7D, 0x31, 0x7D, 0x33, 0xE0]) := by decide

/-- 2.3.6 and 2.4.1 with `MAX_LEN` = 1: two bytes are refused. -/
theorem test_tx_frame_refuses :
    run (.txFrame [0x80, 0x80]) (withMax 1 Rx.cleanIdle) = some (Rx.cleanIdle, .tx .refusedTooLong []) := by decide

/-- 2.4.2, first row: the length byte 0x10 plain, the address byte 0x13 escaped. -/
theorem test_tx_transmit :
    outOf (.txTransmit addrA [0x48, 0x69]) =
      some (.tx .ok [0x7E, 0x00, 0x10, 0x10, 0x01, 0x00, 0x7D, 0x33, 0xA2, 0x00, 0x40, 0x0A, 0x01, 0x27, 0xFF, 0xFE,
        0x00, 0x00, 0x48, 0x69, 0x19]) := by decide

/-- 2.4.3, first row: the length byte 0x11 escaped. -/
theorem test_tx_remote_at :
    outOf (.txRemoteAt addrA ⟨0x44, 0x30⟩ [0x00, 0x05]) =
      some (.tx .ok [0x7E, 0x00, 0x7D, 0x31, 0x17, 0x01, 0x00, 0x7D, 0x33, 0xA2, 0x00, 0x40, 0x0A, 0x01, 0x27, 0xFF,
        0xFE, 0x02, 0x44, 0x30, 0x00, 0x05, 0x48]) := by decide

/-! Reset (95, 2.6) and the step. -/

/-- Second row: silent. -/
theorem test_reset :
    run .reset (withRx (inData 4 2 0xFB true [0x7E, 0x7D])) = some (Rx.cleanIdle, .none) := by decide

/-- A step sends a frame whole and takes the move; a step with no move is quiet. -/
theorem test_step :
    stepOf { State.reset with pending := [.call (.txFrame [0x05])] } =
        some (Rx.cleanIdle, .tx .ok [0x7E, 0, 1, 5, 0xFA], [0x7E, 0, 1, 5, 0xFA]) ∧
      stepOf { State.reset with out := quietRx } = some (Rx.cleanIdle, .none, []) := by decide

/-- A descriptor that cannot be expressed is refused by name. -/
theorem test_step_refuses :
    step { State.reset with pending := [.command 1 [1, 2, 3, 4, 5, 6, 7, 8, 9]] } =
      .refused (.illSizedCommand .shortCommand) := by rfl

/-! Witnesses: the hypotheses of each statement can be met. Receive cases and checksum. -/

theorem witness_RxEscSetsEscapePending :
    ∃ v₁ v₂ v₃ : RxView, (v₁.ps ≠ .idle ∧ v₁.escp = false) ∧ decode v₂ (.raw 0x7D) = .ok .rxEsc ∧
      (v₃.ps ≠ .idle ∧ v₃.escp = true) :=
  ⟨⟨.len, false, false⟩, ⟨.csum, false, false⟩, ⟨.payload, false, true⟩, by decide⟩

/-- Lengths 257, 0, 256 and 1 with `MAX_LEN` = 256; length 0 with `MAX_LEN` = 0. -/
theorem witness_RxLenLoValidatesLength :
    ∃ (s₁ s₂ s₃ s₄ : State) (v₁ v₂ v₃ v₄ : Byte),
      s₁.cfg.maxLen.toNat < s₁.rx.len.toNat / 256 * 256 + v₁.toNat ∧
        s₂.rx.len.toNat / 256 * 256 + v₂.toNat = 0 ∧ s₂.cfg.maxLen.toNat = 0 ∧
        s₃.rx.len.toNat / 256 * 256 + v₃.toNat = s₃.cfg.maxLen.toNat ∧
        s₃.rx.len.toNat / 256 * 256 + v₃.toNat ≠ 0 ∧ s₄.rx.len.toNat / 256 * 256 + v₄.toNat = 1 ∧
        1 ≤ s₄.cfg.maxLen.toNat :=
  ⟨withRx (inLen true 0x0100 false), withMax 0 (inLen true 0 false), withRx (inLen true 0x0100 false),
    withRx (inLen true 0 false), 0x01, 0x00, 0x00, 0x01, by decide⟩

/-- The last byte of the longest frame of a receiver with `MAX_LEN` = 2; every clause. -/
theorem witness_RxDataCollectsByte :
    ∃ (s t : State) (v : Byte), s.Inv ∧ s.rx.ps = .payload ∧ s.rx.rem.toNat = 1 ∧ exec (.rxData v) s = .next t ∧
      t.rx.buf.length = s.cfg.maxLen.toNat :=
  ⟨withMax 2 (inData 2 1 0x42 false [0x42]), _, 0xC0, by decide, rfl, rfl, rfl, rfl⟩

theorem witness_RxCsumDeliversOrRejects :
    ∃ s₁ s₂ : State, (s₁.Inv ∧ s₁.rx.ps = .csum ∧ s₁.rx.buf = []) ∧ (s₂.Inv ∧ s₂.rx.ps = .csum ∧ s₂.rx.buf ≠ []) :=
  ⟨withRx (inCsum 0 0 false []), withMax 4 (inCsum 4 0x1F true [0x7E, 0x7D, 0x11, 0x13]),
    ⟨by decide, rfl, rfl⟩, ⟨by decide, rfl, by decide⟩⟩

/-- An escape marker and its partner, and a plain byte before the end. -/
theorem witness_UnescapeIsFoldOfUnescStep :
    (∃ s : State, exec (.unescStep false 0x7D) s = .next { s with out := .unesc true .tNone } ∧
      exec (.unescape true [0x5E]) s = .next { s with out := .tokens [.tByte 0x7E] false }) ∧
    (∃ s : State, exec (.unescStep true 0x5E) s = .next { s with out := .unesc false (.tByte 0x7E) } ∧
      exec (.unescape false []) s = .next { s with out := .tokens [] false }) :=
  ⟨⟨State.reset, rfl, rfl⟩, ⟨State.reset, rfl, rfl⟩⟩

theorem witness_EscapePendingIsUnescapeFlag :
    ∃ (s t : State) (bs : List Byte), bs.length = 2 ∧
      (∀ (k : Nat) (u : State), k < bs.length → exec (.feedChunk (bs.take k)) s = .next u → u.rx.ps ≠ .idle) ∧
      exec (.feedChunk bs) s = .next t ∧ t.rx.escp = true := by
  refine ⟨withRx (inData 2 2 0 true []), _, [0x31, 0x7D], rfl, ?_, rfl, rfl⟩
  intro k u hk h
  cases h
  revert k
  decide

theorem witness_EscapeAppendAndInjective :
    ∃ as bs : List Byte, escapeBytes as = escapeBytes bs ∧ as = [0x7E, 0x5E] := ⟨[0x7E, 0x5E], [0x7E, 0x5E], rfl, rfl⟩

theorem witness_CksGenIsComplementOfSum : ∃ d d' : List Byte, d.Perm d' ∧ d ≠ d' :=
  ⟨[0x01, 0x02], [0x02, 0x01], by decide⟩

theorem witness_CksChkTestsSum :
    ∃ (as bs : List Byte) (x y c : Byte), x ≠ y ∧ checkChecksum (as ++ x :: bs) c = .valid :=
  ⟨[0x7E], [0x11, 0x13], 0x7D, 0x7C, 0xE0, by decide⟩

/-! Witnesses: the builder. -/

/-- Lengths equal to `MAX_LEN` and one more: 256 and 257, 0 and 1. -/
theorem witness_TxFrameWrapsOrRefuses :
    ∃ (s s' : State) (p₁ p₂ p₃ p₄ : List Byte),
      (p₁.length ≤ s.cfg.maxLen.toNat ∧ p₁.length = 256) ∧ (s.cfg.maxLen.toNat < p₂.length ∧ p₂.length = 257) ∧
        (p₃.length ≤ s'.cfg.maxLen.toNat ∧ p₃ = []) ∧ (s'.cfg.maxLen.toNat < p₄.length ∧ p₄.length = 1) :=
  ⟨State.reset, withMax 0 Rx.cleanIdle, List.replicate 256 0xFF, List.replicate 257 0, [], [0], by
    simp only [List.length_replicate]; decide⟩

/-- 242 and 243 bytes of data (95, 2.4.2). -/
theorem witness_TxTransmitEncodesRequest :
    ∃ (s : State) (d₁ d₂ p : List Byte), 14 + d₁.length ≤ s.cfg.maxLen.toNat ∧ d₁.length = 242 ∧
      s.cfg.maxLen.toNat < 14 + d₂.length ∧ d₂.length = 243 ∧
      p = s.cfg.txType :: s.cfg.frameId :: addrA.a0 :: addrA.a1 :: addrA.a2 :: addrA.a3 :: addrA.a4 :: addrA.a5 ::
        addrA.a6 :: addrA.a7 :: s.cfg.dest16.1 :: s.cfg.dest16.2 :: s.cfg.txRadius :: s.cfg.txOptions :: d₁ :=
  ⟨State.reset, List.replicate 242 0, List.replicate 243 0, _, by simp only [List.length_replicate]; decide,
    List.length_replicate, by simp only [List.length_replicate]; decide, List.length_replicate, rfl⟩

/-- 241 and 242 bytes of parameter (95, 2.4.3). -/
theorem witness_TxRemoteAtEncodesRequest :
    ∃ (s : State) (q₁ q₂ p : List Byte) (c : AtCommand), 15 + q₁.length ≤ s.cfg.maxLen.toNat ∧ q₁.length = 241 ∧
      s.cfg.maxLen.toNat < 15 + q₂.length ∧ q₂.length = 242 ∧
      p = 0x17 :: s.cfg.frameId :: addrA.a0 :: addrA.a1 :: addrA.a2 :: addrA.a3 :: addrA.a4 :: addrA.a5 :: addrA.a6 ::
        addrA.a7 :: s.cfg.dest16.1 :: s.cfg.dest16.2 :: 0x02 :: c.c0 :: c.c1 :: q₁ :=
  ⟨State.reset, List.replicate 241 0, List.replicate 242 0, _, ⟨0x44, 0x30⟩,
    by simp only [List.length_replicate]; decide, List.length_replicate,
    by simp only [List.length_replicate]; decide, List.length_replicate, rfl⟩

/-- For each of the three transmit operations. -/
theorem witness_WireAlphabet :
    ∃ (s t₁ t₂ t₃ : State) (w₁ w₂ w₃ : List Byte), (exec (.txFrame [0x7E]) s = .next t₁ ∧ t₁.out = .tx .ok w₁) ∧
      (exec (.txTransmit addrA []) s = .next t₂ ∧ t₂.out = .tx .ok w₂) ∧
      (exec (.txRemoteAt addrA ⟨0x44, 0x30⟩ []) s = .next t₃ ∧ t₃.out = .tx .ok w₃) :=
  ⟨State.reset, _, _, _, _, _, _, ⟨rfl, rfl⟩, ⟨rfl, rfl⟩, ⟨rfl, rfl⟩⟩

theorem witness_WireLength :
    ∃ (s t : State) (p w : List Byte), exec (.txFrame p) s = .next t ∧ t.out = .tx .ok w ∧ p = [0x81] :=
  ⟨State.reset, _, _, _, rfl, rfl, rfl⟩

/-- The three clauses; in the last one the two frame types differ, as they do after reset. -/
theorem witness_BuilderIsInjective :
    (∃ (s t t' : State) (w : List Byte), exec (.txTransmit addrA [0x7E]) s = .next t ∧ t.out = .tx .ok w ∧
      exec (.txTransmit addrA [0x7E]) s = .next t' ∧ t'.out = .tx .ok w) ∧
    (∃ (s t t' : State) (w : List Byte), exec (.txRemoteAt addrA ⟨0x44, 0x30⟩ [5]) s = .next t ∧ t.out = .tx .ok w ∧
      exec (.txRemoteAt addrA ⟨0x44, 0x30⟩ [5]) s = .next t' ∧ t'.out = .tx .ok w) ∧
    (∃ (s t t' : State) (w w' : List Byte), s.cfg.txType ≠ 0x17 ∧ exec (.txTransmit addrA [1]) s = .next t ∧
      t.out = .tx .ok w ∧ exec (.txRemoteAt addrA ⟨0x44, 0x30⟩ []) s = .next t' ∧ t'.out = .tx .ok w') :=
  ⟨⟨State.reset, _, _, _, rfl, rfl, rfl, rfl⟩, ⟨State.reset, _, _, _, rfl, rfl, rfl, rfl⟩,
    ⟨State.reset, _, _, _, _, by decide, rfl, rfl, rfl, rfl⟩⟩

/-! Witnesses: the step. -/

theorem witness_StepRunsDecodedMove :
    ∃ (s : State) (m : HostMove) (rest : List HostMove) (i : Instr), s.pending = m :: rest ∧ decode s.rx.view m = .ok i ∧
      rest ≠ [] :=
  ⟨{ State.reset with pending := [.raw 0x7E, .call .reset] }, _, _, _, rfl, rfl, by decide⟩

theorem witness_StepWithoutMoveIsQuiet : ∃ s : State, s.pending = [] ∧ s.out ≠ .none :=
  ⟨{ State.reset with out := quietRx }, rfl, by decide⟩

/-- A refused descriptor of each kind, one byte short, and the shortest ones that are not refused. -/
theorem witness_StepStopsOnlyOnIllSizedCommand :
    (∃ r, step { State.reset with pending := [.command 0 [1, 2, 3, 4, 5, 6, 7]] } = .refused r) ∧
      (∃ r, step { State.reset with pending := [.command 1 [1, 2, 3, 4, 5, 6, 7, 8, 9]] } = .refused r) ∧
      (∃ t, step { State.reset with pending := [.command 0 [1, 2, 3, 4, 5, 6, 7, 8]] } = .next t) ∧
      (∃ t, step { State.reset with pending := [.command 1 [1, 2, 3, 4, 5, 6, 7, 8, 9, 10]] } = .next t) :=
  ⟨⟨_, rfl⟩, ⟨_, rfl⟩, ⟨_, rfl⟩, ⟨_, rfl⟩⟩

/-- A byte of frame data, fed in a state that meets the invariants. -/
theorem witness_StepKeepsInvariants :
    ∃ s t : State, s.Inv ∧ step s = .next t ∧ s.rx.ps = .payload ∧ t.rx.ps = .csum :=
  ⟨{ withMax 2 (inData 2 1 0x42 false [0x42]) with pending := [.raw 0xC0] }, _, by decide, rfl, rfl, rfl⟩

theorem witness_StepKeepsParameters : ∃ s t : State, step s = .next t ∧ s.pending ≠ [] :=
  ⟨{ State.reset with pending := [.raw 0x7E] }, _, rfl, by decide⟩

theorem witness_RawByteIsConsumedOnce :
    ∃ (s t : State) (m : HostMove) (rest : List HostMove), s.pending = m :: rest ∧ step s = .next t ∧ rest ≠ [] :=
  ⟨{ State.reset with pending := [.raw 0x7E, .raw 0x00] }, _, _, _, rfl, rfl, by decide⟩

/-- A step that emits a frame, one that is refused, and one of the receiver. -/
theorem witness_OutStreamGrowsByWholeFrames :
    (∃ s t : State, step s = .next t ∧ t.outStream = [0x7E, 0, 0, 0xFF]) ∧
      (∃ s t : State, step s = .next t ∧ t.out = .tx .refusedTooLong []) ∧
      (∃ s t : State, step s = .next t ∧ t.out = quietRx) :=
  ⟨⟨{ State.reset with pending := [.call (.txFrame [])] }, _, rfl, rfl⟩,
    ⟨{ withMax 0 Rx.cleanIdle with pending := [.call (.txFrame [1])] }, _, rfl, rfl⟩,
    ⟨{ State.reset with pending := [.raw 0x7E] }, _, rfl, rfl⟩⟩

/-- One operation of each of the four kinds. -/
theorem witness_OperationsWriteOnlyTheirOwn :
    ∃ s t₁ t₂ t₃ t₄ : State,
      (exec (.feed 0x7E) s = .next t₁ ∧ Instr.isReceive (.feed 0x7E) = true) ∧
        (exec (.txFrame []) s = .next t₂ ∧ Instr.isTransmit (.txFrame []) = true) ∧
        (exec (.cksGen []) s = .next t₃ ∧ Instr.isFunction (.cksGen []) = true) ∧ exec .reset s = .next t₄ :=
  ⟨State.reset, _, _, _, _, ⟨rfl, rfl⟩, ⟨rfl, rfl⟩, ⟨rfl, rfl⟩, rfl⟩

/-- Two states that differ in the other agent's part. -/
theorem witness_AgentsDoNotInterfere :
    (∃ s s' t t' : State, Instr.isTransmit (.txFrame [5]) = true ∧ s.cfg = s'.cfg ∧ s.rx ≠ s'.rx ∧
      exec (.txFrame [5]) s = .next t ∧ exec (.txFrame [5]) s' = .next t') ∧
    (∃ s s' t t' : State, Instr.isReceive (.feed 0x7E) = true ∧ s.cfg = s'.cfg ∧ s.rx = s'.rx ∧
      s.outStream ≠ s'.outStream ∧ exec (.feed 0x7E) s = .next t ∧ exec (.feed 0x7E) s' = .next t') :=
  ⟨⟨State.reset, withRx (inLen false 0 false), _, _, rfl, rfl, by decide, rfl, rfl⟩,
    ⟨State.reset, { State.reset with outStream := [1] }, _, _, rfl, rfl, rfl, by decide, rfl, rfl⟩⟩

theorem witness_InterleavingsAgree :
    ∃ (i j : Instr) (s a b c d : State), i.isReceive = true ∧ j.isTransmit = true ∧ exec i s = .next a ∧
      exec j a = .next b ∧ exec j s = .next c ∧ exec i c = .next d :=
  ⟨.feed 0x7E, .txFrame [5], State.reset, _, _, _, _, rfl, rfl, rfl, rfl, rfl, rfl⟩

theorem witness_RawStepsRunLikeOneChunk :
    ∃ (s : State) (bs : List Byte) (rest : List HostMove), s.pending = bs.map HostMove.raw ++ rest ∧ bs.length = 5 ∧
      rest ≠ [] :=
  ⟨{ State.reset with pending := [.raw 0x7E, .raw 0, .raw 1, .raw 0, .raw 0xFF, .call .reset] },
    [0x7E, 0, 1, 0, 0xFF], [.call .reset], rfl, rfl, by decide⟩

/-! Witnesses: the rules of the whole receiver. -/

/-- A state for every row of the table, each of which meets the invariants: Idle; either length byte, with an escape
pending too; frame data with 1 and with 2 bytes to go; the checksum. -/
theorem witness_ParserTransitionTable :
    State.reset.Inv ∧ (withRx (inLen false 0 false)).Inv ∧ (withRx (inLen false 0 true)).Inv ∧
      (withRx (inLen true 0x0100 false)).Inv ∧ (withMax 0 (inLen true 0 false)).Inv ∧
      (withRx (inData 2 2 0 false [])).Inv ∧ (withRx (inData 2 1 0x42 true [0x42])).Inv ∧
      (withRx (inCsum 1 0x42 false [0x42])).Inv :=
  ⟨by decide, by decide, by decide, by decide, by decide, by decide, by decide, by decide⟩

/-- Out of Idle, out of the frame data, out of the checksum, by a raw 0x7E. -/
theorem witness_NoShortcutTransitions :
    ∃ s₁ s₂ s₃ t₁ t₂ t₃ : State,
      (exec (.feed 0x7E) s₁ = .next t₁ ∧ s₁.rx.ps = .idle ∧ t₁.rx.ps = .len) ∧
        (exec (.feed 0x7E) s₂ = .next t₂ ∧ s₂.rx.ps = .payload ∧ t₂.rx.ps = .len) ∧
        (exec (.feed 0x7E) s₃ = .next t₃ ∧ s₃.rx.ps = .csum ∧ t₃.rx.ps = .len) :=
  ⟨State.reset, withRx (inData 2 2 0 false []), withRx (inCsum 0 0 false []), _, _, _, ⟨rfl, rfl, rfl⟩,
    ⟨rfl, rfl, rfl⟩, ⟨rfl, rfl, rfl⟩⟩

/-- Each of the four results. -/
theorem witness_StateAfterEachResult :
    ∃ s₁ s₂ s₃ s₄ t₁ t₂ t₃ t₄ : State,
      (exec (.feed 0xFF) s₁ = .next t₁ ∧ t₁.out = .rx ⟨.complete [], false⟩) ∧
        (exec (.feed 0x00) s₂ = .next t₂ ∧ t₂.out = .rx ⟨.invalid .checksumMismatch, false⟩) ∧
        (exec (.feed 0x01) s₃ = .next t₃ ∧ t₃.out = .rx ⟨.invalid .lengthOverrun, false⟩) ∧
        (exec (.feed 0x7E) s₄ = .next t₄ ∧ t₄.out = .rx ⟨.invalid .unexpectedStart, true⟩) :=
  ⟨withRx (inCsum 0 0 false []), withRx (inCsum 0 0 false []), withRx (inLen true 0x0100 false),
    withRx (inLen false 0 false), _, _, _, _, ⟨rfl, rfl⟩, ⟨rfl, rfl⟩, ⟨rfl, rfl⟩, ⟨rfl, rfl⟩⟩

/-- Each of the four causes, the length and the checksum once with an escape pending. -/
theorem witness_ResultsHaveOneCause :
    ∃ s₁ s₂ s₃ s₄ t₁ t₂ t₃ t₄ : State,
      (exec (.feed 0x7E) s₁ = .next t₁ ∧ t₁.out = .rx ⟨.invalid .unexpectedStart, true⟩) ∧
        (exec (.feed 0x31) s₂ = .next t₂ ∧ t₂.out = .rx ⟨.invalid .lengthOverrun, false⟩) ∧
        (exec (.feed 0x5E) s₃ = .next t₃ ∧ t₃.out = .rx ⟨.invalid .checksumMismatch, false⟩) ∧
        (exec (.feed 0x5E) s₄ = .next t₄ ∧ t₄.out = .rx ⟨.complete [0x81], false⟩) :=
  ⟨withRx (inData 2 2 0 true []), withRx (inLen true 0x0100 true), withRx (inCsum 1 0x81 false [0x81]),
    withRx (inCsum 1 0x81 true [0x81]), _, _, _, _, ⟨rfl, rfl⟩, ⟨rfl, rfl⟩, ⟨rfl, rfl⟩, ⟨rfl, rfl⟩⟩

theorem witness_ReadingsOfAByteHavePriority :
    ∃ s₁ s₂ s₃ s₄ s₅ : State, s₁.rx.ps = .idle ∧ (s₂.rx.ps = .payload ∧ s₂.rx.escp = true) ∧
      (s₃.rx.ps = .csum ∧ s₃.rx.escp = true) ∧ (s₄.rx.ps = .len ∧ s₄.rx.lhv = false ∧ s₄.rx.escp = true) ∧
      (s₅.rx.ps = .len ∧ s₅.rx.lhv = true ∧ s₅.rx.escp = true) :=
  ⟨State.reset, withRx (inData 2 2 0 true []), withRx (inCsum 0 0 true []), withRx (inLen false 0 true),
    withRx (inLen true 0 true), by decide⟩

/-- The five rows of the correspondence. -/
theorem witness_SourceStateCorrespondence :
    (State.reset.Inv ∧ State.reset.rx.sourceState = .idle) ∧
      ((withRx (inLen false 0 false)).Inv ∧ (inLen false 0 false).sourceState = .collectingLength []) ∧
      ((withRx (inLen true 0xFF00 true)).Inv ∧ (inLen true 0xFF00 true).sourceState = .collectingLength [0xFF]) ∧
      ((withRx (inData 2 1 0x42 false [0x42])).Inv ∧
        (inData 2 1 0x42 false [0x42]).sourceState = .collectingPayload 1) ∧
      ((withRx (inCsum 0 0 false [])).Inv ∧ (inCsum 0 0 false []).sourceState = .awaitingChecksum) :=
  ⟨⟨by decide, rfl⟩, ⟨by decide, rfl⟩, ⟨by decide, rfl⟩, ⟨by decide, rfl⟩, ⟨by decide, rfl⟩⟩

/-- The longest frame of a receiver with `MAX_LEN` = 1, and the empty one; an escaped checksum. -/
theorem witness_DeliveredFrameHasDeclaredLength :
    ∃ (s₁ s₂ t₁ t₂ : State), (s₁.Inv ∧ exec (.feed 0x5E) s₁ = .next t₁ ∧ t₁.out = .rx ⟨.complete [0x81], false⟩) ∧
      (s₂.Inv ∧ exec (.feed 0xFF) s₂ = .next t₂ ∧ t₂.out = .rx ⟨.complete [], false⟩) :=
  ⟨withMax 1 (inCsum 1 0x81 true [0x81]), withMax 0 (inCsum 0 0 false []), _, _, ⟨by decide, rfl, rfl⟩,
    ⟨by decide, rfl, rfl⟩⟩

/-- Two receivers in different states. -/
theorem witness_StartResynchronizes :
    ∃ (s s' t t' : State) (bs : List Byte) (os os' : List RxOut), s.cfg.maxLen = s'.cfg.maxLen ∧ s.rx ≠ s'.rx ∧
      exec (.feedChunk (0x7E :: bs)) s = .next t ∧ t.out = .rxChunk os ∧
      exec (.feedChunk (0x7E :: bs)) s' = .next t' ∧ t'.out = .rxChunk os' ∧ bs = [0x00, 0x00, 0xFF] :=
  ⟨State.reset, withRx (inData 2 2 0 true []), _, _, _, _, _, rfl, by decide, rfl, rfl, rfl, rfl, rfl⟩

/-- The longest frame data and the empty one. -/
theorem witness_WellFormedFrameIsRecognised :
    ∃ (s s' : State) (d d' : List Byte), (d.length ≤ s.cfg.maxLen.toNat ∧ d.length = 256) ∧
      (d'.length ≤ s'.cfg.maxLen.toNat ∧ d' = []) :=
  ⟨State.reset, withMax 0 Rx.cleanIdle, List.replicate 256 0x7E, [], by
    simp only [List.length_replicate]; decide⟩

/-- The three transmit operations. -/
theorem witness_AcceptedCommandLoopsBack :
    ∃ (s t₁ t₂ t₃ : State) (w₁ w₂ w₃ p₂ p₃ : List Byte),
      (exec (.txFrame [0x81]) s = .next t₁ ∧ t₁.out = .tx .ok w₁) ∧
        (exec (.txTransmit addrA [1]) s = .next t₂ ∧ t₂.out = .tx .ok w₂ ∧ p₂ = transmitData s.cfg addrA [1]) ∧
        (exec (.txRemoteAt addrA ⟨0x44, 0x30⟩ [1]) s = .next t₃ ∧ t₃.out = .tx .ok w₃ ∧
          p₃ = remoteAtData s.cfg addrA ⟨0x44, 0x30⟩ [1]) :=
  ⟨State.reset, _, _, _, _, _, _, _, _, ⟨rfl, rfl⟩, ⟨rfl, rfl, rfl⟩, ⟨rfl, rfl, rfl⟩⟩

/-- S1 (95, 1). -/
theorem witness_OnlyFramesAreReported :
    ∃ (s t : State) (bs : List Byte) (os : List RxOut) (f : List Byte) (w : Bool), s.rx = Rx.cleanIdle ∧
      exec (.feedChunk bs) s = .next t ∧ t.out = .rxChunk os ∧ os.getLast? = some ⟨.complete f, w⟩ ∧
      bs = [0x7E, 0x00, 0x01, 0x00, 0xFF] :=
  ⟨State.reset, _, _, _, _, _, rfl, rfl, rfl, rfl, rfl⟩

/-- The smallest bound, with exactly that many bytes. -/
theorem witness_FrameEndsWithinBound :
    ∃ (s : State) (bs : List Byte), 0x7E ∉ bs ∧ 2 * (s.cfg.maxLen.toNat + 3) ≤ bs.length ∧ bs.length = 6 :=
  ⟨withMax 0 Rx.cleanIdle, [0x7D, 0x20, 0x7D, 0x20, 0x7D, 0xDF], by decide⟩

/-! Witnesses: encodings. -/

/-- The two rows with a value condition, and the rows with a state condition, the logical byte at a reserved value. -/
theorem witness_DecodeOfEncodeIsIdentity :
    (Instr.wellFormed (.rxDrop 0x7D) = true ∧ Instr.selectable ⟨.idle, false, false⟩ (.rxDrop 0x7D) = true) ∧
      Instr.selectable ⟨.csum, false, false⟩ .rxEsc = true ∧
      Instr.selectable ⟨.len, false, true⟩ (.rxLenHi 0x7E) = true ∧
      Instr.selectable ⟨.len, true, true⟩ (.rxLenLo 0x7D) = true ∧
      Instr.selectable ⟨.payload, false, true⟩ (.rxData 0x11) = true ∧
      Instr.selectable ⟨.csum, false, false⟩ (.rxCsum 0xFF) = true ∧
      (Instr.wellFormed (.escBytePass 0x12) = true ∧ Instr.selectable ⟨.idle, false, false⟩ (.escBytePass 0x12) = true) ∧
      (Instr.wellFormed (.txTransmit addrA [1]) = true ∧
        Instr.selectable ⟨.idle, false, false⟩ (.txTransmit addrA [1]) = true) := by decide

/-- Each of the four kinds of move. -/
theorem witness_EncodeOfDecodeIsIdentity :
    ∃ i₁ i₂ i₃ i₄ : Instr, decode ⟨.payload, false, true⟩ (.raw 0x5E) = .ok i₁ ∧
      decode ⟨.idle, false, false⟩ (.logical 0x7F) = .ok i₂ ∧
      decode ⟨.idle, false, false⟩ (.command 1 [1, 2, 3, 4, 5, 6, 7, 8, 9, 10]) = .ok i₃ ∧
      decode ⟨.idle, false, false⟩ (.call (.feed 0x7E)) = .ok i₄ :=
  ⟨_, _, _, _, rfl, rfl, rfl, rfl⟩

end Sys2Proof.Tests
end

/-! The correspondence with the source's parser states (10_state.md R23). What `sourceState` answers is a fact about
`PS`, `LHV` and the carried values alone; the invariants of R30 then add the other columns of the table. -/

namespace Sys2Proof.Machine

/-! Each variant of the source, without the invariants. -/

theorem Rx.sourceState_eq_idle_iff (r : Rx) : r.sourceState = .idle ↔ r.ps = .idle := by
  rcases r with ⟨ps, lhv, -⟩
  cases ps <;> cases lhv <;> simp [Rx.sourceState]

theorem Rx.sourceState_eq_collectingLength_nil_iff (r : Rx) :
    r.sourceState = .collectingLength [] ↔ r.ps = .len ∧ r.lhv = false := by
  rcases r with ⟨ps, lhv, -⟩
  cases ps <;> cases lhv <;> simp [Rx.sourceState]

theorem Rx.sourceState_eq_collectingLength_singleton_iff (r : Rx) (h : Byte) :
    r.sourceState = .collectingLength [h] ↔ r.ps = .len ∧ r.lhv = true ∧ r.len.extractLsb' 8 8 = h := by
  rcases r with ⟨ps, lhv, -⟩
  cases ps <;> cases lhv <;> simp [Rx.sourceState]

theorem Rx.sourceState_eq_collectingPayload_iff (r : Rx) (n : Nat) :
    r.sourceState = .collectingPayload n ↔ r.ps = .payload ∧ r.rem.toNat = n := by
  rcases r with ⟨ps, lhv, -⟩
  cases ps <;> cases lhv <;> simp [Rx.sourceState]

theorem Rx.sourceState_eq_awaitingChecksum_iff (r : Rx) : r.sourceState = .awaitingChecksum ↔ r.ps = .csum := by
  rcases r with ⟨ps, lhv, -⟩
  cases ps <;> cases lhv <;> simp [Rx.sourceState]

/-! The columns that the invariants add. -/

/-- `LEN[15:8]` as a number. -/
theorem highByte_eq_iff (len : Word16) (h : Byte) : len.extractLsb' 8 8 = h ↔ len.toNat / 256 = h.toNat := by
  have hlen := len.isLt
  rw [← BitVec.toNat_inj, BitVec.extractLsb'_toNat, Nat.shiftRight_eq_div_pow]
  omega

/-- I1 of R30 in both directions. -/
theorem Rx.ps_eq_idle_iff_cleanIdle {r : Rx} (hclean : r.IdleClean) : r.ps = .idle ↔ r = Rx.cleanIdle :=
  ⟨hclean, fun hr => by rw [hr, Rx.cleanIdle_ps]⟩

/-- I3 of R30 bounds the countdown. -/
theorem Rx.payload_rem_iff_bounded {maxLen : Word16} {r : Rx} (hshape : r.PayloadShape maxLen) (n : Nat) :
    r.ps = .payload ∧ r.rem.toNat = n ↔ r.ps = .payload ∧ r.rem.toNat = n ∧ 1 ≤ n ∧ n ≤ r.len.toNat := by
  constructor
  · rintro ⟨hps, rfl⟩
    obtain ⟨-, hpos, hle, -⟩ := hshape hps
    exact ⟨hps, rfl, hpos, hle⟩
  · rintro ⟨hps, hrem, -, -⟩
    exact ⟨hps, hrem⟩

/-- I4 of R30 has the countdown at its end. -/
theorem Rx.ps_eq_csum_iff_rem_eq_zero {maxLen : Word16} {r : Rx} (hshape : r.CsumShape maxLen) :
    r.ps = .csum ↔ r.ps = .csum ∧ r.rem = 0 := by
  constructor
  · intro hps
    obtain ⟨-, hrem, -⟩ := hshape hps
    exact ⟨hps, hrem⟩
  · exact And.left

/-- Settles O49: each row is what `sourceState` answers, with the column that I1, I3 or I4 adds. -/
theorem sourceStateCorrespondence : Obligations.SourceStateCorrespondence := by
  intro s ⟨hidle, _, hpayload, hcsum, _⟩
  refine ⟨?idle, ?noLengthByte, fun h => ?oneLengthByte, fun n => ?payload, ?checksum⟩
  case idle => exact s.rx.sourceState_eq_idle_iff.trans (Rx.ps_eq_idle_iff_cleanIdle hidle)
  case noLengthByte => exact s.rx.sourceState_eq_collectingLength_nil_iff
  case oneLengthByte => rw [Rx.sourceState_eq_collectingLength_singleton_iff, highByte_eq_iff]
  case payload => exact (s.rx.sourceState_eq_collectingPayload_iff n).trans (Rx.payload_rem_iff_bounded hpayload n)
  case checksum => exact s.rx.sourceState_eq_awaitingChecksum_iff.trans (Rx.ps_eq_csum_iff_rem_eq_zero hcsum)

end Sys2Proof.Machine

/-! The escape processor (40_escape.md R112 to R121). `RESERVED` is named by its four values and ESCAPE by the list
operation it is; its length then follows from the length of one ESC_BYTE. -/

namespace Sys2Proof.Machine

/-- `RESERVED` (R9) by its four values. -/
theorem reserved_iff (o : Byte) : Params.reserved o = true ↔ o = 0x7E ∨ o = 0x7D ∨ o = 0x11 ∨ o = 0x13 := by
  simp [Params.reserved, Params.start, Params.esc, Params.xon, Params.xoff, or_assoc]

/-- ESC_BYTE (R112) with its literal values. -/
theorem escByte_eq_ite (o : Byte) :
    escByte o = if o = 0x7E ∨ o = 0x7D ∨ o = 0x11 ∨ o = 0x13 then [0x7D, o ^^^ 0x20] else [o] :=
  if_congr (reserved_iff o) rfl rfl

/-- ESCAPE (R114) joins the ESC_BYTE of each element. -/
theorem escapeBytes_eq_flatMap (bs : List Byte) : escapeBytes bs = bs.flatMap escByte := by
  induction bs with
  | nil => rfl
  | cons o bs ih => rw [escapeBytes_cons, List.flatMap_cons, ih]

/-- ESC_BYTE gives one byte, or two for a reserved one. -/
theorem escByte_length (o : Byte) : (escByte o).length = 1 + if Params.reserved o then 1 else 0 := by
  rcases escByte_spec o with ⟨hres, heq⟩ | ⟨hres, heq⟩ <;> simp [hres, heq]

/-- The length of an escaped sequence (R121). -/
theorem escapeBytes_length (bs : List Byte) : (escapeBytes bs).length = bs.length + bs.countP Params.reserved := by
  induction bs with
  | nil => rfl
  | cons o bs ih =>
    rw [escapeBytes_cons, List.length_append, escByte_length, ih, List.length_cons, List.countP_cons]
    omega

/-- What the host's call of ESCAPE does: its result is the output, and no register changes (R114). -/
theorem exec_escape (bs : List Byte) (s : State) : exec (.escape bs) s = .next (s.emit (.bytes (escapeBytes bs))) := rfl

/-- Settles O14: the result of ESCAPE is `escapeBytes`, which is the `flatMap` of ESC_BYTE. -/
theorem escapeJoinsEscapedBytes : Obligations.EscapeJoinsEscapedBytes := by
  refine ⟨fun s bs => ?join, ?twice, fun p => ?startOutside⟩
  case join =>
    rw [exec_escape, escapeBytes_eq_flatMap, funext escByte_eq_ite]
    rfl
  case twice => decide
  case startOutside => rfl

/-- Settles O19: one byte more for each reserved element, and there are at most `|b|` of those. -/
theorem escapeLengthCountsReserved : Obligations.EscapeLengthCountsReserved := by
  intro bs
  have hcount : bs.countP (fun b => b = 0x7E ∨ b = 0x7D ∨ b = 0x11 ∨ b = 0x13) = bs.countP Params.reserved :=
    List.countP_congr fun o _ => by rw [decide_eq_true_iff, reserved_iff]
  have hle : bs.countP Params.reserved ≤ bs.length := List.countP_le_length
  rw [hcount, escapeBytes_length]
  omega

end Sys2Proof.Machine

/-! FEED and FEED_CHUNK as operations (42_rx_synchronizer.md R150, R176). The fold itself is a fact about
`Rx.feedBytes`; the operations carry it over, since feeding never changes the parameters. -/

namespace Sys2Proof.Machine

/-- What the host's call of FEED does (R150). -/
theorem exec_feed (b : Byte) (s : State) : exec (.feed b) s = .next (s.emitRx (s.rx.feed s.cfg.maxLen b)) := rfl

/-- What the host's call of FEED_CHUNK does (R176). -/
theorem exec_feedChunk (bs : List Byte) (s : State) :
    exec (.feedChunk bs) s = .next (s.emitChunk (Rx.feedBytes s.cfg.maxLen bs s.rx)) := rfl

/-- Settles O12: FEED_CHUNK is `Rx.feedBytes` on the registers, which splits at the first byte and at any cut. -/
theorem feedChunkIsFoldOfFeed : Obligations.FeedChunkIsFoldOfFeed := by
  refine ⟨fun s => ?empty, fun s b bs => ?firstByte, fun s as bs => ?cut⟩
  case empty =>
    rw [exec_feedChunk, Rx.feedBytes_nil]
    rfl
  case firstByte =>
    refine ⟨_, _, _, _, exec_feed b s, State.emitRx_out _ s, exec_feedChunk bs _, ?_, Rx.feedBytes_length _ bs _⟩
    rw [exec_feedChunk, Rx.feedBytes_cons]
    rfl
  case cut =>
    refine ⟨_, _, _, _, exec_feedChunk as s, State.emitChunk_out _ s, exec_feedChunk bs _, ?_⟩
    rw [exec_feedChunk, Rx.feedBytes_append]
    rfl

end Sys2Proof.Machine

/-! The four kinds of operations (10_state.md R21, R38; 43 R200; 70 R280), each with one equation for what its
operations do: a receive operation works on the registers, a transmit operation sends one frame data, a called
function hands over its result. -/

namespace Sys2Proof.Machine

/-- What a receive operation leaves in the registers and hands over, for the parameter `MAX_LEN`. -/
def receiveEffect (m : Word16) : Instr → Rx → Rx × StepOut
  | .rxStart, r => (r.startMarker.1, .rx r.startMarker.2)
  | .rxDrop _, r => (r.drop.1, .rx r.drop.2)
  | .rxEsc, r => (r.escapeMarker.1, .rx r.escapeMarker.2)
  | .rxLenHi v, r => ((r.lengthHigh v).1, .rx (r.lengthHigh v).2)
  | .rxLenLo v, r => ((r.lengthLow m v).1, .rx (r.lengthLow m v).2)
  | .rxData v, r => ((r.dataByte v).1, .rx (r.dataByte v).2)
  | .rxCsum v, r => ((r.checksumByte v).1, .rx (r.checksumByte v).2)
  | .feed b, r => ((r.feed m b).1, .rx (r.feed m b).2)
  | .feedChunk bs, r => ((Rx.feedBytes m bs r).1, .rxChunk (Rx.feedBytes m bs r).2)
  | _, r => (r, .none)

/-- The frame data that a transmit operation sends. -/
def sentData (c : Config) : Instr → List Byte
  | .txFrame p => p
  | .txTransmit a d => transmitData c a d
  | .txRemoteAt a k q => remoteAtData c a k q
  | _ => []

/-- The result of a called function. -/
def functionResult : Instr → StepOut
  | .escByte7E => .bytes (escByte Params.start)
  | .escByte7D => .bytes (escByte Params.esc)
  | .escByte11 => .bytes (escByte Params.xon)
  | .escByte13 => .bytes (escByte Params.xoff)
  | .escBytePass o => .bytes [o]
  | .escape bs => .bytes (escapeBytes bs)
  | .unescStep e b => .unesc (unescapeStep e b).1 (unescapeStep e b).2
  | .unescape e bs => .tokens (unescapeTokens e bs).1 (unescapeTokens e bs).2
  | .cksGen d => .checksum (checksumOf d)
  | .cksChk d c => .check (checkChecksum d c)
  | _ => .none

theorem instr_kind_cases (i : Instr) :
    i.isReceive = true ∨ i.isTransmit = true ∨ i.isFunction = true ∨ i = .reset := by
  cases i <;> simp [Instr.isReceive, Instr.isTransmit, Instr.isFunction]

theorem exec_of_isReceive {i : Instr} (hi : i.isReceive = true) (s : State) :
    exec i s = .next { s with
      rx := (receiveEffect s.cfg.maxLen i s.rx).1
      out := (receiveEffect s.cfg.maxLen i s.rx).2 } := by
  cases i <;> cases hi <;> rfl

theorem exec_of_isTransmit {i : Instr} (hi : i.isTransmit = true) (s : State) :
    exec i s = .next (s.emitFrame (txFrame s.cfg (sentData s.cfg i))) := by
  cases i <;> cases hi <;> rfl

theorem exec_of_isFunction {i : Instr} (hi : i.isFunction = true) (s : State) :
    exec i s = .next (s.emit (functionResult i)) := by
  cases i <;> cases hi <;> rfl

theorem exec_reset (s : State) : exec .reset s = .next { s with rx := Rx.cleanIdle, out := .none } := rfl

/-- A receive operation never hands over a frame to send. -/
theorem receiveEffect_ne_tx (m : Word16) (i : Instr) (r : Rx) (x : TxStatus) (w : List Byte) :
    (receiveEffect m i r).2 ≠ .tx x w := by
  cases i <;> exact StepOut.noConfusion

/-- A called function never hands over a frame to send. -/
theorem functionResult_ne_tx (i : Instr) (x : TxStatus) (w : List Byte) : functionResult i ≠ .tx x w := by
  cases i <;> exact StepOut.noConfusion

theorem State.emitFrame_frame (o : TxStatus × List Byte) (s : State) :
    s.emitFrame o = { s with outStream := (s.emitFrame o).outStream, out := (s.emitFrame o).out } := by
  rcases o with ⟨_ | _, w⟩ <;> rfl

/-- The output of a transmit operation depends on what is sent alone. -/
theorem State.emitFrame_out_congr (o : TxStatus × List Byte) (s s' : State) :
    (s.emitFrame o).out = (s'.emitFrame o).out := by
  rcases o with ⟨_ | _, w⟩ <;> rfl

/-- Whatever hands over an accepted frame is a transmit operation, and the frame is that of the data it sends
(43 R202). -/
theorem exec_tx_ok {i : Instr} {s t : State} {w : List Byte} (h : exec i s = .next t) (ho : t.out = .tx .ok w) :
    i.isTransmit = true ∧ (sentData s.cfg i).length ≤ s.cfg.maxLen.toNat ∧ w = wireFrame (sentData s.cfg i) ∧
      t = { s with outStream := s.outStream ++ w, out := .tx .ok w } := by
  rcases instr_kind_cases i with hi | hi | hi | rfl
  · rw [exec_of_isReceive hi, Host.Outcome.next.injEq] at h
    subst h
    exact (receiveEffect_ne_tx _ _ _ _ _ ho).elim
  · rw [exec_of_isTransmit hi, Host.Outcome.next.injEq] at h
    subst h
    rcases txFrame_spec s.cfg (sentData s.cfg i) with ⟨hle, heq⟩ | ⟨-, heq⟩
    · rw [heq, State.emitFrame_ok] at ho ⊢
      obtain ⟨-, rfl⟩ := StepOut.tx.inj ho
      exact ⟨hi, hle, rfl, rfl⟩
    · rw [heq, State.emitFrame_refused] at ho
      cases (StepOut.tx.inj ho).1
  · rw [exec_of_isFunction hi, Host.Outcome.next.injEq] at h
    subst h
    exact (functionResult_ne_tx _ _ _ ho).elim
  · rw [exec_reset, Host.Outcome.next.injEq] at h
    subst h
    cases ho

/-- Settles O40: each kind of operation writes what its equation names, and every operation is of one kind. -/
theorem operationsWriteOnlyTheirOwn : Obligations.OperationsWriteOnlyTheirOwn := by
  intro i s t h
  refine ⟨fun hi => ?receive, fun hi => ?transmit, fun hi => ?function, fun hi => ?reset, instr_kind_cases i⟩
  case receive =>
    rw [exec_of_isReceive hi, Host.Outcome.next.injEq] at h
    exact h ▸ rfl
  case transmit =>
    rw [exec_of_isTransmit hi, Host.Outcome.next.injEq] at h
    exact h ▸ State.emitFrame_frame _ s
  case function =>
    rw [exec_of_isFunction hi, Host.Outcome.next.injEq] at h
    exact h ▸ rfl
  case reset =>
    rw [hi, exec_reset, Host.Outcome.next.injEq] at h
    exact h ▸ rfl

/-- No operation writes a parameter or a move of the host. -/
theorem exec_cfg_pending {i : Instr} {s t : State} (h : exec i s = .next t) :
    t.cfg = s.cfg ∧ t.pending = s.pending := by
  obtain ⟨hreceive, htransmit, hfunction, hreset, hkind⟩ := operationsWriteOnlyTheirOwn i s t h
  rcases hkind with hi | hi | hi | hi
  · rw [hreceive hi]
    exact ⟨rfl, rfl⟩
  · rw [htransmit hi]
    exact ⟨rfl, rfl⟩
  · rw [hfunction hi]
    exact ⟨rfl, rfl⟩
  · rw [hreset hi]
    exact ⟨rfl, rfl⟩

/-- A transmit operation or a called function leaves the registers alone (10_state.md R38). -/
theorem exec_rx_of_silent {i : Instr} {s t : State} (hi : i.isTransmit = true ∨ i.isFunction = true)
    (h : exec i s = .next t) : t.rx = s.rx := by
  obtain ⟨-, htransmit, hfunction, -⟩ := operationsWriteOnlyTheirOwn i s t h
  rcases hi with hi | hi
  · rw [htransmit hi]
  · rw [hfunction hi]

end Sys2Proof.Machine

/-! The decoder (30_encoding.md sections 3 and 5): what each kind of move decodes to, each said once. -/

namespace Sys2Proof

@[simp] theorem LongAddr.bytes_length (a : LongAddr) : a.bytes.length = 8 := rfl

@[simp] theorem AtCommand.bytes_length (c : AtCommand) : c.bytes.length = 2 := rfl

theorem takeAddr_bytes_append (a : LongAddr) (rest : List Byte) : takeAddr (a.bytes ++ rest) = .ok (a, rest) := rfl

/-- A list is too short for an address, or is an address and what follows it. -/
theorem takeAddr_spec (fs : List Byte) :
    (fs.length < 8 ∧ takeAddr fs = .error .shortAddress) ∨
      ∃ (a : LongAddr) (rest : List Byte), fs = a.bytes ++ rest := by
  match fs with
  | a0 :: a1 :: a2 :: a3 :: a4 :: a5 :: a6 :: a7 :: rest =>
    exact .inr ⟨⟨a0, a1, a2, a3, a4, a5, a6, a7⟩, rest, rfl⟩
  | [] | [_] | [_, _] | [_, _, _] | [_, _, _, _] | [_, _, _, _, _] | [_, _, _, _, _, _] | [_, _, _, _, _, _, _] =>
    exact .inl ⟨by simp, rfl⟩

/-- A list is too short for a command, or is a command and what follows it. -/
theorem takeCommand_spec (fs : List Byte) :
    (fs.length < 2 ∧ takeCommand fs = .error .shortCommand) ∨
      ∃ (c : AtCommand) (rest : List Byte), fs = c.bytes ++ rest := by
  match fs with
  | c0 :: c1 :: rest => exact .inr ⟨⟨c0, c1⟩, rest, rfl⟩
  | [] | [_] => exact .inl ⟨by simp, rfl⟩

theorem decodeCommand_transmit (a : LongAddr) (d : List Byte) :
    decodeCommand 0 (a.bytes ++ d) = .ok (.txTransmit a d) := rfl

theorem decodeCommand_remoteAt (a : LongAddr) (c : AtCommand) (q : List Byte) :
    decodeCommand 1 (a.bytes ++ (c.bytes ++ q)) = .ok (.txRemoteAt a c q) := rfl

/-- Everything a command descriptor can be: too short for its fixed fields, or one of the two commands (R98). -/
theorem decodeCommand_spec (k : BitVec 1) (fs : List Byte) :
    ((fs.length < 8 ∨ (k = 1 ∧ fs.length < 10)) ∧ ∃ e, decodeCommand k fs = .error e) ∨
      (k = 0 ∧ ∃ a d, fs = LongAddr.bytes a ++ d) ∨
      (k = 1 ∧ ∃ a c q, fs = LongAddr.bytes a ++ (AtCommand.bytes c ++ q)) := by
  rcases takeAddr_spec fs with ⟨hshort, herr⟩ | ⟨a, rest, rfl⟩
  · exact .inl ⟨.inl hshort, .shortAddress, by simp only [decodeCommand, herr]⟩
  rcases (by decide : ∀ k : BitVec 1, k = 0 ∨ k = 1) k with rfl | rfl
  · exact .inr (.inl ⟨rfl, a, rest, rfl⟩)
  rcases takeCommand_spec rest with ⟨hshort, herr⟩ | ⟨c, q, rfl⟩
  · refine .inl ⟨.inr ⟨rfl, ?_⟩, .shortCommand, ?_⟩
    · rw [List.length_append, LongAddr.bytes_length]
      omega
    · simp [decodeCommand, takeAddr_bytes_append, herr]
  · exact .inr (.inr ⟨rfl, a, c, q, rfl⟩)

theorem decodeLogical_isFunction (o : Byte) : (decodeLogical o).isFunction = true := by
  unfold decodeLogical
  split_ifs <;> rfl

theorem decodeCommand_isTransmit {k : BitVec 1} {fs : List Byte} {i : Instr} (h : decodeCommand k fs = .ok i) :
    i.isTransmit = true := by
  rcases decodeCommand_spec k fs with ⟨-, e, he⟩ | ⟨rfl, a, d, rfl⟩ | ⟨rfl, a, c, q, rfl⟩
  · rw [he] at h
    cases h
  · cases h
    rfl
  · cases h
    rfl

/-- Everything the decoder can give: a case selected by a raw byte, an operation that is not for `RX`, or a call of
FEED, FEED_CHUNK or RESET (R101). -/
theorem decode_cases {view : RxView} {m : HostMove} {i : Instr} (h : decode view m = .ok i) :
    (∃ b, m = .raw b ∧ i = decodeRaw view b) ∨ (i.isTransmit = true ∨ i.isFunction = true) ∨
      (∃ b, m = .call (.feed b) ∧ i = .feed b) ∨ (∃ bs, m = .call (.feedChunk bs) ∧ i = .feedChunk bs) ∨
      (m = .call .reset ∧ i = .reset) := by
  cases m with
  | raw b => exact .inl ⟨b, rfl, (Except.ok.inj h).symm⟩
  | logical o => exact .inr (.inl (.inr (Except.ok.inj h ▸ decodeLogical_isFunction o)))
  | command k fs => exact .inr (.inl (.inl (decodeCommand_isTransmit h)))
  | call c =>
    obtain rfl := Except.ok.inj h
    cases c with
    | feed b => exact .inr (.inr (.inl ⟨b, rfl, rfl⟩))
    | feedChunk bs => exact .inr (.inr (.inr (.inl ⟨bs, rfl, rfl⟩)))
    | reset => exact .inr (.inr (.inr (.inr ⟨rfl, rfl⟩)))
    | txFrame p => exact .inr (.inl (.inl rfl))
    | escape bs => exact .inr (.inl (.inr rfl))
    | unescStep e b => exact .inr (.inl (.inr rfl))
    | unescape e bs => exact .inr (.inl (.inr rfl))
    | cksGen d => exact .inr (.inl (.inr rfl))
    | cksChk d c => exact .inr (.inl (.inr rfl))

end Sys2Proof

/-! The receiver on its registers (42_rx_synchronizer.md sections 1 and 2): what each of the seven cases gives, and
FEED in four parts: a start marker, a byte in `IDLE`, an escape marker, and a logical byte. -/

namespace Sys2Proof.Machine

/-- The registers right after a raw `START` are the same whatever they were before (42 R152). -/
theorem Rx.startMarker_eq (r : Rx) :
    r.startMarker =
      ({ Rx.cleanIdle with ps := .len },
        if r.ps = .idle then ⟨.incomplete, false⟩ else ⟨.invalid .unexpectedStart, true⟩) := by
  unfold Rx.startMarker
  split <;> rfl

theorem lenWithLow_eq_zero_iff (l : Word16) (v : Byte) : lenWithLow l v = 0 ↔ l.toNat / 256 * 256 + v.toNat = 0 := by
  rw [← lenWithLow_toNat, ← BitVec.toNat_inj]
  rfl

theorem Rx.lengthLow_overrun {m : Word16} {v : Byte} {r : Rx} (h : m.toNat < r.len.toNat / 256 * 256 + v.toNat) :
    r.lengthLow m v = (Rx.cleanIdle, ⟨.invalid .lengthOverrun, false⟩) := by
  rw [← lenWithLow_toNat] at h
  exact if_pos h

theorem Rx.lengthLow_zero (m : Word16) {v : Byte} {r : Rx} (h : r.len.toNat / 256 * 256 + v.toNat = 0) :
    r.lengthLow m v =
      ({ r with ps := .csum, lhv := false, len := 0, rem := 0, escp := false }, ⟨.incomplete, false⟩) := by
  have hzero : lenWithLow r.len v = 0 := (lenWithLow_eq_zero_iff ..).2 h
  simp [Rx.lengthLow, hzero]

theorem Rx.lengthLow_legal {m : Word16} {v : Byte} {r : Rx} (hne : r.len.toNat / 256 * 256 + v.toNat ≠ 0)
    (hle : r.len.toNat / 256 * 256 + v.toNat ≤ m.toNat) :
    r.lengthLow m v =
      ({ r with
          ps := .payload, lhv := false, len := lenWithLow r.len v, rem := lenWithLow r.len v, escp := false },
        ⟨.incomplete, false⟩) := by
  have hnz : lenWithLow r.len v ≠ 0 := mt (lenWithLow_eq_zero_iff ..).1 hne
  have hnlt : ¬ m.toNat < (lenWithLow r.len v).toNat := by rw [lenWithLow_toNat]; omega
  simp only [Rx.lengthLow, if_neg hnlt, if_neg hnz]

/-- `REM <- REM - 1` as a number, where there is something left. -/
theorem rem_pred_toNat {n : Word16} (h : 1 ≤ n.toNat) : (n - 1).toNat = n.toNat - 1 := by
  bv_omega

theorem rem_pred_eq_zero_iff (n : Word16) : n - 1 = 0 ↔ n.toNat = 1 := by
  rw [BitVec.sub_eq_iff_eq_add, ← BitVec.toNat_inj]
  rfl

theorem Rx.dataByte_eq (v : Byte) (r : Rx) :
    r.dataByte v =
      ({ r with
          buf := r.buf ++ [v], sum := sumStep r.sum v, rem := r.rem - 1, escp := false
          ps := if r.rem.toNat = 1 then .csum else r.ps },
        ⟨.incomplete, false⟩) := by
  simp only [Rx.dataByte, Memory.append, rem_pred_eq_zero_iff]

theorem Rx.checksumByte_eq (v : Byte) (r : Rx) :
    r.checksumByte v =
      (Rx.cleanIdle,
        if (r.sum.toNat + v.toNat) % 256 = 0xFF then ⟨.complete r.buf, false⟩
        else ⟨.invalid .checksumMismatch, false⟩) := by
  simp only [Rx.checksumByte, sumOk_iff, Memory.read_whole, Rx.clear_eq, Rx.raise_checksumMismatch]
  split <;> rfl

/-- What a logical byte does in a frame: rows 4 to 7 of the operation map (30 R88). In `IDLE`, where no byte is
logical, it is dropped. -/
def Rx.takeLogical (m : Word16) (v : Byte) (r : Rx) : Rx × RxOut :=
  match r.ps, r.lhv with
  | .idle, _ => r.drop
  | .len, false => r.lengthHigh v
  | .len, true => r.lengthLow m v
  | .payload, _ => r.dataByte v
  | .csum, _ => r.checksumByte v

theorem Rx.takeLogical_lengthHigh (m : Word16) (v : Byte) {r : Rx} (hps : r.ps = .len) (hlhv : r.lhv = false) :
    r.takeLogical m v = r.lengthHigh v := by
  simp [Rx.takeLogical, hps, hlhv]

theorem Rx.takeLogical_lengthLow (m : Word16) (v : Byte) {r : Rx} (hps : r.ps = .len) (hlhv : r.lhv = true) :
    r.takeLogical m v = r.lengthLow m v := by
  simp [Rx.takeLogical, hps, hlhv]

theorem Rx.takeLogical_dataByte (m : Word16) (v : Byte) {r : Rx} (hps : r.ps = .payload) :
    r.takeLogical m v = r.dataByte v := by
  simp [Rx.takeLogical, hps]

theorem Rx.takeLogical_checksumByte (m : Word16) (v : Byte) {r : Rx} (hps : r.ps = .csum) :
    r.takeLogical m v = r.checksumByte v := by
  simp [Rx.takeLogical, hps]

theorem givesLogical_iff (view : RxView) (b : Byte) :
    givesLogical view b = true ↔ b ≠ Params.start ∧ ¬(view.escp = false ∧ b = Params.esc) := by
  cases h : view.escp <;> simp [givesLogical, h]

theorem Rx.feed_start (m : Word16) (r : Rx) : r.feed m Params.start = r.startMarker := by simp [Rx.feed]

theorem Rx.feed_idle (m : Word16) {b : Byte} {r : Rx} (hb : b ≠ Params.start) (hps : r.ps = .idle) :
    r.feed m b = r.drop := by
  simp [Rx.feed, hb, hps]

theorem Rx.feed_esc (m : Word16) {r : Rx} (hps : r.ps ≠ .idle) (hescp : r.escp = false) :
    r.feed m Params.esc = r.escapeMarker := by
  have hne : Params.esc ≠ Params.start := by decide
  simp [Rx.feed, hne, hps, hescp]

theorem Rx.feed_logical (m : Word16) {b : Byte} {r : Rx} (hps : r.ps ≠ .idle) (hb : givesLogical r.view b = true) :
    r.feed m b = r.takeLogical m (logicalByte r.escp b) := by
  obtain ⟨hstart, hesc⟩ := (givesLogical_iff _ _).1 hb
  rw [Rx.view_escp] at hesc
  simp only [Rx.feed, if_neg hstart, if_neg hps, if_neg hesc]
  rfl

/-- FEED in four parts, in the order in which R150 tests them. -/
theorem Rx.feed_parts (m : Word16) (b : Byte) (r : Rx) :
    (b = Params.start ∧ r.feed m b = r.startMarker) ∨
      (b ≠ Params.start ∧ r.ps = .idle ∧ r.feed m b = r.drop) ∨
      (b = Params.esc ∧ r.ps ≠ .idle ∧ r.escp = false ∧ r.feed m b = r.escapeMarker) ∨
      (givesLogical r.view b = true ∧ r.ps ≠ .idle ∧ r.feed m b = r.takeLogical m (logicalByte r.escp b)) := by
  by_cases hstart : b = Params.start
  · subst hstart
    exact .inl ⟨rfl, Rx.feed_start m r⟩
  by_cases hps : r.ps = .idle
  · exact .inr (.inl ⟨hstart, hps, Rx.feed_idle m hstart hps⟩)
  by_cases hesc : r.escp = false ∧ b = Params.esc
  · obtain ⟨hescp, rfl⟩ := hesc
    exact .inr (.inr (.inl ⟨rfl, hps, hescp, Rx.feed_esc m hps hescp⟩))
  · have hb : givesLogical r.view b = true := (givesLogical_iff _ _).2 ⟨hstart, hesc⟩
    exact .inr (.inr (.inr ⟨hb, hps, Rx.feed_logical m hps hb⟩))

/-- What a logical byte does in a frame, each outcome with what leads to it. -/
theorem Rx.takeLogical_parts (m : Word16) (v : Byte) {r : Rx} (hps : r.ps ≠ .idle) :
    (r.ps = .len ∧ r.lhv = false ∧ r.takeLogical m v = r.lengthHigh v) ∨
      (r.ps = .len ∧ r.lhv = true ∧ r.takeLogical m v = r.lengthLow m v) ∨
      (r.ps = .payload ∧ r.takeLogical m v = r.dataByte v) ∨
      (r.ps = .csum ∧ r.takeLogical m v = r.checksumByte v) := by
  cases h : r.ps with
  | idle => exact absurd h hps
  | len =>
    cases hlhv : r.lhv with
    | false => exact .inl ⟨rfl, rfl, Rx.takeLogical_lengthHigh m v h hlhv⟩
    | true => exact .inr (.inl ⟨rfl, rfl, Rx.takeLogical_lengthLow m v h hlhv⟩)
  | payload => exact .inr (.inr (.inl ⟨rfl, Rx.takeLogical_dataByte m v h⟩))
  | csum => exact .inr (.inr (.inr ⟨rfl, Rx.takeLogical_checksumByte m v h⟩))

/-- The three outcomes of the second length byte, each with what leads to it (42 R162). -/
theorem Rx.lengthLow_parts (m : Word16) (v : Byte) (r : Rx) :
    (m.toNat < r.len.toNat / 256 * 256 + v.toNat ∧
        r.lengthLow m v = (Rx.cleanIdle, ⟨.invalid .lengthOverrun, false⟩)) ∨
      (r.len.toNat / 256 * 256 + v.toNat = 0 ∧
        r.lengthLow m v =
          ({ r with ps := .csum, lhv := false, len := 0, rem := 0, escp := false }, ⟨.incomplete, false⟩)) ∨
      (r.len.toNat / 256 * 256 + v.toNat ≠ 0 ∧ r.len.toNat / 256 * 256 + v.toNat ≤ m.toNat ∧
        r.lengthLow m v =
          ({ r with
              ps := .payload, lhv := false, len := lenWithLow r.len v, rem := lenWithLow r.len v, escp := false },
            ⟨.incomplete, false⟩)) := by
  by_cases hover : m.toNat < r.len.toNat / 256 * 256 + v.toNat
  · exact .inl ⟨hover, Rx.lengthLow_overrun hover⟩
  by_cases hzero : r.len.toNat / 256 * 256 + v.toNat = 0
  · exact .inr (.inl ⟨hzero, Rx.lengthLow_zero m hzero⟩)
  · have hle := Nat.le_of_not_lt hover
    exact .inr (.inr ⟨hzero, hle, Rx.lengthLow_legal hzero hle⟩)

/-- The five results of FEED, each with what leads to it and the registers it leaves (42 R172, R174). -/
theorem Rx.feed_results (m : Word16) (b : Byte) (r : Rx) :
    ((r.feed m b).2 = ⟨.incomplete, false⟩ ∧ ¬(b = Params.start ∧ r.ps ≠ .idle)) ∨
      (b = Params.start ∧ r.ps ≠ .idle ∧
        r.feed m b = ({ Rx.cleanIdle with ps := .len }, ⟨.invalid .unexpectedStart, true⟩)) ∨
      (givesLogical r.view b = true ∧ r.ps = .len ∧ r.lhv = true ∧
        m.toNat < r.len.toNat / 256 * 256 + (logicalByte r.escp b).toNat ∧
        r.feed m b = (Rx.cleanIdle, ⟨.invalid .lengthOverrun, false⟩)) ∨
      (givesLogical r.view b = true ∧ r.ps = .csum ∧ (r.sum.toNat + (logicalByte r.escp b).toNat) % 256 ≠ 0xFF ∧
        r.feed m b = (Rx.cleanIdle, ⟨.invalid .checksumMismatch, false⟩)) ∨
      (givesLogical r.view b = true ∧ r.ps = .csum ∧ (r.sum.toNat + (logicalByte r.escp b).toNat) % 256 = 0xFF ∧
        r.feed m b = (Rx.cleanIdle, ⟨.complete r.buf, false⟩)) := by
  rcases Rx.feed_parts m b r with ⟨rfl, heq⟩ | ⟨hstart, -, heq⟩ | ⟨rfl, -, -, heq⟩ | ⟨hb, hps, heq⟩
  · rw [heq, Rx.startMarker_eq]
    by_cases hps : r.ps = .idle
    · exact .inl ⟨if_pos hps, fun h => h.2 hps⟩
    · exact .inr (.inl ⟨rfl, hps, by rw [if_neg hps]⟩)
  · exact .inl ⟨by rw [heq]; rfl, fun h => hstart h.1⟩
  · exact .inl ⟨by rw [heq]; rfl, fun h => absurd h.1 (by decide)⟩
  obtain ⟨hstart, -⟩ := (givesLogical_iff _ _).1 hb
  have hother : ¬(b = Params.start ∧ r.ps ≠ .idle) := fun h => hstart h.1
  rw [heq]
  rcases Rx.takeLogical_parts m (logicalByte r.escp b) hps with
    ⟨-, -, htake⟩ | ⟨hlen, hlhv, htake⟩ | ⟨-, htake⟩ | ⟨hcsum, htake⟩ <;> rw [htake]
  · exact .inl ⟨rfl, hother⟩
  · rcases Rx.lengthLow_parts m (logicalByte r.escp b) r with ⟨hover, hlow⟩ | ⟨-, hlow⟩ | ⟨-, -, hlow⟩ <;> rw [hlow]
    · exact .inr (.inr (.inl ⟨hb, hlen, hlhv, hover, rfl⟩))
    · exact .inl ⟨rfl, hother⟩
    · exact .inl ⟨rfl, hother⟩
  · exact .inl ⟨rfl, hother⟩
  · rw [Rx.checksumByte_eq]
    by_cases hvalid : (r.sum.toNat + (logicalByte r.escp b).toNat) % 256 = 0xFF
    · exact .inr (.inr (.inr (.inr ⟨hb, hcsum, hvalid, by rw [if_pos hvalid]⟩)))
    · exact .inr (.inr (.inr (.inl ⟨hb, hcsum, hvalid, by rw [if_neg hvalid]⟩)))

/-- A frame is delivered only at the checksum, and only the whole buffer (42 R170, R174). -/
theorem Rx.feed_complete {m : Word16} {b : Byte} {r : Rx} {f : List Byte} (h : (r.feed m b).2.res = .complete f) :
    givesLogical r.view b = true ∧ r.ps = .csum ∧ f = r.buf ∧
      (r.sum.toNat + (logicalByte r.escp b).toNat) % 256 = 0xFF := by
  rcases Rx.feed_results m b r with
    ⟨heq, -⟩ | ⟨-, -, heq⟩ | ⟨-, -, -, -, heq⟩ | ⟨-, -, -, heq⟩ | ⟨hb, hps, hvalid, heq⟩ <;> rw [heq] at h
  · cases h
  · cases h
  · cases h
  · cases h
  · cases h
    exact ⟨hb, hps, rfl, hvalid⟩

end Sys2Proof.Machine

/-! The invariants of the registers (10_state.md R30) are kept by every step. For each value of `PS` the five
conditions come down to the row of that value; the cases of FEED are then one row each. -/

namespace Sys2Proof.Machine

theorem Rx.inv_iff_of_idle {m : Word16} {r : Rx} (h : r.ps = .idle) : r.Inv m ↔ r = Rx.cleanIdle := by
  constructor
  · rintro ⟨hidle, -⟩
    exact hidle h
  · rintro rfl
    simp [Rx.Inv, Rx.IdleClean, Rx.LenShape, Rx.PayloadShape, Rx.CsumShape, Memory.wf]

theorem Rx.inv_iff_of_len {m : Word16} {r : Rx} (h : r.ps = .len) :
    r.Inv m ↔
      r.rem = 0 ∧ r.sum = 0 ∧ r.buf = [] ∧ r.len.extractLsb' 0 8 = 0 ∧ (r.lhv = false → r.len = 0) := by
  constructor
  · rintro ⟨-, hlen, -⟩
    exact hlen h
  · intro hlen
    obtain ⟨-, -, hbuf, -⟩ := id hlen
    refine ⟨by simp [h], fun _ => hlen, by simp [h], by simp [h], ?_⟩
    rw [hbuf]
    exact Memory.nil_wf m

theorem Rx.inv_iff_of_payload {m : Word16} {r : Rx} (h : r.ps = .payload) :
    r.Inv m ↔
      r.lhv = false ∧ 1 ≤ r.rem.toNat ∧ r.rem.toNat ≤ r.len.toNat ∧ r.len.toNat ≤ m.toNat ∧
        r.buf.length = r.len.toNat - r.rem.toNat ∧ r.sum.toNat = byteSum r.buf % 256 := by
  constructor
  · rintro ⟨-, -, hpayload, -⟩
    exact hpayload h
  · intro hpayload
    obtain ⟨-, -, -, hle, hbuf, -⟩ := id hpayload
    refine ⟨by simp [h], by simp [h], fun _ => hpayload, by simp [h], ?_⟩
    simp only [Memory.wf]
    omega

theorem Rx.inv_iff_of_csum {m : Word16} {r : Rx} (h : r.ps = .csum) :
    r.Inv m ↔
      r.lhv = false ∧ r.rem = 0 ∧ r.buf.length = r.len.toNat ∧ r.len.toNat ≤ m.toNat ∧
        r.sum.toNat = byteSum r.buf % 256 := by
  constructor
  · rintro ⟨-, -, -, hcsum, -⟩
    exact hcsum h
  · intro hcsum
    obtain ⟨-, -, hbuf, hle, -⟩ := id hcsum
    refine ⟨by simp [h], by simp [h], by simp [h], fun _ => hcsum, ?_⟩
    simp only [Memory.wf]
    omega

theorem Rx.cleanIdle_inv (m : Word16) : Rx.cleanIdle.Inv m := (Rx.inv_iff_of_idle rfl).2 rfl

/-- A frame just begun. -/
theorem Rx.frameBegun_inv (m : Word16) : Rx.Inv m { Rx.cleanIdle with ps := .len } :=
  (Rx.inv_iff_of_len rfl).2 ⟨rfl, rfl, rfl, rfl, fun _ => rfl⟩

theorem Rx.escapeMarker_inv {m : Word16} {r : Rx} (hps : r.ps ≠ .idle) (h : r.Inv m) : r.escapeMarker.1.Inv m := by
  obtain ⟨-, hlen, hpayload, hcsum, hwf⟩ := h
  exact ⟨fun hidle => absurd hidle hps, hlen, hpayload, hcsum, hwf⟩

/-- The low byte of `LEN` is left alone by the first length byte. -/
theorem lenWithHigh_lowByte (l : Word16) (v : Byte) : (lenWithHigh l v).extractLsb' 0 8 = l.extractLsb' 0 8 := by
  rw [← BitVec.toNat_inj, BitVec.extractLsb'_toNat, BitVec.extractLsb'_toNat, lenWithHigh_toNat]
  simp only [Nat.shiftRight_zero]
  omega

theorem Rx.lengthHigh_inv {m : Word16} {r : Rx} (v : Byte) (hps : r.ps = .len) (h : r.Inv m) :
    (r.lengthHigh v).1.Inv m := by
  obtain ⟨hrem, hsum, hbuf, hlow, -⟩ := (Rx.inv_iff_of_len hps).1 h
  have hps' : (r.lengthHigh v).1.ps = .len := hps
  refine (Rx.inv_iff_of_len hps').2 ⟨hrem, hsum, hbuf, ?_, fun hlhv => Bool.noConfusion hlhv⟩
  exact (lenWithHigh_lowByte r.len v).trans hlow

theorem Rx.lengthLow_inv {m : Word16} {r : Rx} (v : Byte) (hps : r.ps = .len) (h : r.Inv m) :
    (r.lengthLow m v).1.Inv m := by
  obtain ⟨hrem, hsum, hbuf, -⟩ := (Rx.inv_iff_of_len hps).1 h
  have hbytes : r.sum.toNat = byteSum r.buf % 256 := by rw [hsum, hbuf]; rfl
  rcases Rx.lengthLow_parts m v r with ⟨-, heq⟩ | ⟨-, heq⟩ | ⟨hne, hle, heq⟩
  · rw [heq]
    exact Rx.cleanIdle_inv m
  · rw [heq]
    refine (Rx.inv_iff_of_csum rfl).2 ⟨rfl, rfl, ?_, Nat.zero_le _, hbytes⟩
    rw [hbuf]
    rfl
  · rw [heq]
    refine (Rx.inv_iff_of_payload rfl).2 ⟨rfl, ?_, Nat.le_refl _, ?_, ?_, hbytes⟩
    · rw [lenWithLow_toNat]
      omega
    · rw [lenWithLow_toNat]
      exact hle
    · rw [hbuf, Nat.sub_self]
      rfl

/-- The running sum of the buffer goes on to be that of the longer buffer (41 R134). -/
theorem sumStep_byteSum {sum : Byte} {buf : List Byte} (v : Byte) (h : sum.toNat = byteSum buf % 256) :
    (sumStep sum v).toNat = byteSum (buf ++ [v]) % 256 := by
  rw [sumStep_toNat, h, byteSum_append]
  simp only [byteSum]
  omega

theorem Rx.dataByte_inv {m : Word16} {r : Rx} (v : Byte) (hps : r.ps = .payload) (h : r.Inv m) :
    (r.dataByte v).1.Inv m := by
  obtain ⟨hlhv, hpos, hrem, hlen, hbuf, hsum⟩ := (Rx.inv_iff_of_payload hps).1 h
  have hrem' := rem_pred_toNat hpos
  have hsum' := sumStep_byteSum v hsum
  have hbuf' : (r.buf ++ [v]).length = r.buf.length + 1 := List.length_append
  rw [Rx.dataByte_eq]
  by_cases hlast : r.rem.toNat = 1
  · refine (Rx.inv_iff_of_csum (if_pos hlast)).2 ⟨hlhv, (rem_pred_eq_zero_iff _).2 hlast, ?_, hlen, hsum'⟩
    show (r.buf ++ [v]).length = r.len.toNat
    omega
  · refine (Rx.inv_iff_of_payload ((if_neg hlast).trans hps)).2 ⟨hlhv, ?_, ?_, hlen, ?_, hsum'⟩
    · show 1 ≤ (r.rem - 1).toNat
      omega
    · show (r.rem - 1).toNat ≤ r.len.toNat
      omega
    · show (r.buf ++ [v]).length = r.len.toNat - (r.rem - 1).toNat
      omega

theorem Rx.checksumByte_inv (m : Word16) (v : Byte) (r : Rx) : (r.checksumByte v).1.Inv m := by
  rw [Rx.checksumByte_eq]
  exact Rx.cleanIdle_inv m

theorem Rx.takeLogical_inv {m : Word16} {r : Rx} (v : Byte) (hps : r.ps ≠ .idle) (h : r.Inv m) :
    (r.takeLogical m v).1.Inv m := by
  rcases Rx.takeLogical_parts m v hps with ⟨hlen, -, heq⟩ | ⟨hlen, -, heq⟩ | ⟨hpayload, heq⟩ | ⟨-, heq⟩ <;> rw [heq]
  · exact Rx.lengthHigh_inv v hlen h
  · exact Rx.lengthLow_inv v hlen h
  · exact Rx.dataByte_inv v hpayload h
  · exact Rx.checksumByte_inv m v r

theorem Rx.feed_inv {m : Word16} {r : Rx} (b : Byte) (h : r.Inv m) : (r.feed m b).1.Inv m := by
  rcases Rx.feed_parts m b r with ⟨-, heq⟩ | ⟨-, -, heq⟩ | ⟨-, hps, -, heq⟩ | ⟨-, hps, heq⟩ <;> rw [heq]
  · rw [Rx.startMarker_eq]
    exact Rx.frameBegun_inv m
  · exact h
  · exact Rx.escapeMarker_inv hps h
  · exact Rx.takeLogical_inv _ hps h

theorem Rx.feedBytes_inv {m : Word16} {r : Rx} (bs : List Byte) (h : r.Inv m) : (Rx.feedBytes m bs r).1.Inv m := by
  induction bs generalizing r with
  | nil => exact h
  | cons b bs ih => exact ih (Rx.feed_inv b h)

/-- The operation map and the dispatch of FEED agree (30 R88, 42 R150): running the case that a raw byte selects is
feeding the byte. -/
theorem exec_decodeRaw (s : State) (b : Byte) : exec (decodeRaw s.rx.view b) s = exec (.feed b) s := by
  rcases Rx.decodeRaw_spec s.rx.view b with ⟨rfl, hd⟩ | ⟨hb, hps, hd⟩ | ⟨-, hps, hescp, rfl, hd⟩ | hrow
  · rw [hd, exec_feed, Rx.feed_start]
    rfl
  · rw [hd, exec_feed, Rx.feed_idle _ hb hps]
    rfl
  · rw [hd, exec_feed, Rx.feed_esc _ hps hescp]
    rfl
  rcases hrow with ⟨hb, hps, hlhv, hd⟩ | ⟨hb, hps, hlhv, hd⟩ | ⟨hb, hps, hd⟩ | ⟨hb, hps, hd⟩ <;>
    rw [Rx.view_ps] at hps <;> rw [hd, exec_feed, Rx.feed_logical _ (by simp [hps]) hb]
  · rw [Rx.takeLogical_lengthHigh _ _ hps hlhv]
    rfl
  · rw [Rx.takeLogical_lengthLow _ _ hps hlhv]
    rfl
  · rw [Rx.takeLogical_dataByte _ _ hps]
    rfl
  · rw [Rx.takeLogical_checksumByte _ _ hps]
    rfl

/-- What a step can do to the registers: FEED_CHUNK of some bytes, none of them where the move is not for `RX`, or
clean Idle (10_state.md R21). -/
theorem step_rx {s t : State} (h : step s = .next t) :
    (∃ bs, t.rx = (Rx.feedBytes s.cfg.maxLen bs s.rx).1) ∨ t.rx = Rx.cleanIdle := by
  rcases step_next h with ⟨-, rfl⟩ | ⟨m, rest, i, -, hd, hx⟩
  · exact .inl ⟨[], rfl⟩
  rcases decode_cases hd with ⟨b, rfl, rfl⟩ | hsilent | ⟨b, -, rfl⟩ | ⟨bs, -, rfl⟩ | ⟨-, rfl⟩
  · rw [exec_decodeRaw { s with pending := rest } b, exec_feed, Host.Outcome.next.injEq] at hx
    exact .inl ⟨[b], hx ▸ rfl⟩
  · have hrx := exec_rx_of_silent hsilent hx
    exact .inl ⟨[], hrx⟩
  · rw [exec_feed, Host.Outcome.next.injEq] at hx
    exact .inl ⟨[b], hx ▸ rfl⟩
  · rw [exec_feedChunk, Host.Outcome.next.injEq] at hx
    exact .inl ⟨bs, hx ▸ rfl⟩
  · rw [exec_reset, Host.Outcome.next.injEq] at hx
    exact .inr (hx ▸ rfl)

/-- Settles O37: the next state is the old one but for what the operation's kind writes, and no kind writes them. -/
theorem stepKeepsParameters : Obligations.StepKeepsParameters := by
  intro s t h
  rcases step_next h with ⟨-, rfl⟩ | ⟨m, rest, i, -, -, hx⟩
  · rfl
  · exact (exec_cfg_pending hx).1

/-- Settles O36: the registers after a step are FEED_CHUNK of some bytes or clean Idle; FEED keeps each row of the
invariants, and `MAX_LEN` stays as it was. -/
theorem stepKeepsInvariants : Obligations.StepKeepsInvariants := by
  intro s t hinv h
  rw [State.Inv, stepKeepsParameters s t h]
  rcases step_rx h with ⟨bs, hrx⟩ | hrx <;> rw [hrx]
  · exact Rx.feedBytes_inv bs hinv
  · exact Rx.cleanIdle_inv _

/-- Settles O2: the registers after reset are clean Idle. -/
theorem resetStateMeetsInvariants : Obligations.ResetStateMeetsInvariants :=
  ⟨fun c => Rx.cleanIdle_inv c.maxLen, Rx.cleanIdle_inv _⟩

end Sys2Proof.Machine

/-! The escape processor, continued (40_escape.md R112 to R124): the token sequences of the un-escaper, and the round
trip through ESCAPE. -/

namespace Sys2Proof.Machine

theorem logicalByte_eq_ite (e : Bool) (b : Byte) : logicalByte e b = if e then b ^^^ 0x20 else b := rfl

theorem unescapeTokens_cons (e : Bool) (b : Byte) (bs : List Byte) :
    unescapeTokens e (b :: bs) =
      ((unescapeStep e b).2.consTo (unescapeTokens (unescapeStep e b).1 bs).1,
        (unescapeTokens (unescapeStep e b).1 bs).2) := rfl

theorem Token.consTo_eq_append (t : Token) (ts : List Token) :
    t.consTo ts = (if t = .tNone then [] else [t]) ++ ts := by
  cases t <;> rfl

theorem Token.consTo_append (t : Token) (ts us : List Token) : t.consTo ts ++ us = t.consTo (ts ++ us) := by
  simp only [Token.consTo_eq_append, List.append_assoc]

theorem unescapeTokens_esc (bs : List Byte) :
    unescapeTokens false (Params.esc :: bs) = unescapeTokens true bs := rfl

theorem unescapeStep_logical {e : Bool} {b : Byte} (hstart : b ≠ Params.start)
    (hesc : ¬(e = false ∧ b = Params.esc)) : unescapeStep e b = (false, .tByte (logicalByte e b)) := by
  rw [unescapeStep, if_neg hstart, if_neg hesc]

/-- Settles O22: the flag is threaded through, by induction on the first chunk. -/
theorem unescapeComposesOverChunks : Obligations.UnescapeComposesOverChunks := by
  intro e as bs
  induction as generalizing e with
  | nil => rfl
  | cons a as ih => rw [List.cons_append, unescapeTokens_cons, unescapeTokens_cons, ih, Token.consTo_append]

theorem exec_unescStep (e : Bool) (b : Byte) (s : State) :
    exec (.unescStep e b) s = .next (s.emit (.unesc (unescapeStep e b).1 (unescapeStep e b).2)) := rfl

/-- Settles O15: the three tests of the step in their order. -/
theorem unescStepGivesFlagAndToken : Obligations.UnescStepGivesFlagAndToken := by
  intro s e b
  rw [exec_unescStep]
  rcases unescapeStep_spec e b with ⟨rfl, heq⟩ | ⟨rfl, rfl, heq⟩ | ⟨hstart, hesc, heq⟩
  · rw [heq]
    rfl
  · rw [heq]
    rfl
  · have hesc' : ¬(e = false ∧ b = 0x7D) := by
      rintro ⟨rfl, rfl⟩
      exact hesc.elim Bool.noConfusion fun hne => hne rfl
    have hstart' : b ≠ 0x7E := hstart
    rw [heq, if_neg hstart', if_neg hesc']
    cases e <;> rfl

/-- No token of UNESCAPE is `T_NONE`. -/
theorem tNone_not_mem_unescapeTokens (e : Bool) (bs : List Byte) : Token.tNone ∉ (unescapeTokens e bs).1 := by
  induction bs generalizing e with
  | nil => exact List.not_mem_nil
  | cons b bs ih =>
    rw [unescapeTokens_cons, Token.consTo_eq_append, List.mem_append, not_or]
    refine ⟨?_, ih _⟩
    split_ifs with h
    · exact List.not_mem_nil
    · exact fun hmem => h (List.mem_singleton.1 hmem).symm

theorem tokenBytes_map_tByte (vs : List Byte) : tokenBytes (vs.map Token.tByte) = some vs := by
  induction vs with
  | nil => rfl
  | cons v vs ih => simp [tokenBytes, ih]

theorem tokenBytes_eq_some_iff {ts : List Token} (hnone : Token.tNone ∉ ts) (vs : List Byte) :
    tokenBytes ts = some vs ↔ ts = vs.map Token.tByte := by
  constructor
  · intro h
    induction ts generalizing vs with
    | nil =>
      obtain rfl := Option.some.inj h
      rfl
    | cons t ts ih =>
      rw [List.mem_cons, not_or] at hnone
      obtain ⟨hne, hnone⟩ := hnone
      cases t with
      | tStart => cases h
      | tNone => exact absurd rfl hne
      | tByte v =>
        cases hts : tokenBytes ts with
        | none => simp [tokenBytes, hts] at h
        | some us =>
          obtain rfl : v :: us = vs := by simpa [tokenBytes, hts] using h
          rw [ih hnone us hts, List.map_cons]
  · rintro rfl
    exact tokenBytes_map_tByte vs

theorem unescapedBytes_eq_some_iff (bs vs : List Byte) :
    unescapedBytes bs = some vs ↔ unescapeTokens false bs = (vs.map Token.tByte, false) := by
  have htokens := tokenBytes_eq_some_iff (tNone_not_mem_unescapeTokens false bs) vs
  rcases h : unescapeTokens false bs with ⟨ts, _ | _⟩
  · rw [h] at htokens
    simpa [unescapedBytes, h] using htokens
  · simp [unescapedBytes, h]

/-- Settles O16: UNESCAPE is `unescapeTokens`, whose recursion is the fold; its tokens hold no `T_NONE`, so
`unescape_bytes` is defined exactly when all of them are `T_BYTE`. -/
theorem unescapeIsFoldOfUnescStep : Obligations.UnescapeIsFoldOfUnescStep := by
  refine ⟨fun s e bs => ⟨_, _, rfl⟩, fun s e => rfl, ?step, unescapedBytes_eq_some_iff⟩
  intro s e e' b bs t ts f hstep hrest
  obtain ⟨rfl, rfl⟩ := StepOut.unesc.inj (congrArg State.out (Host.Outcome.next.inj hstep))
  obtain ⟨rfl, rfl⟩ := StepOut.tokens.inj (congrArg State.out (Host.Outcome.next.inj hrest))
  rw [← Token.consTo_eq_append]
  rfl

theorem reserved_eq_false_iff (o : Byte) :
    Params.reserved o = false ↔ o ≠ Params.start ∧ o ≠ Params.esc ∧ o ≠ Params.xon ∧ o ≠ Params.xoff := by
  simp [Params.reserved, and_assoc]

/-- The pair of a reserved byte un-escapes to the byte (40 R120). -/
theorem unescapeTokens_escByte_append (o : Byte) (bs : List Byte) :
    unescapeTokens false (escByte o ++ bs) =
      (.tByte o :: (unescapeTokens false bs).1, (unescapeTokens false bs).2) := by
  rcases escByte_spec o with ⟨hres, heq⟩ | ⟨hres, heq⟩
  · have hesc : ¬(true = false ∧ o ^^^ Params.escXor = Params.esc) := fun h => Bool.noConfusion h.1
    have hundo : logicalByte true (o ^^^ Params.escXor) = o := logicalByte_logicalByte true o
    rw [heq, List.cons_append, List.singleton_append, unescapeTokens_esc, unescapeTokens_cons,
      unescapeStep_logical (partner_ne_start hres) hesc, hundo, Token.consTo_tByte]
  · obtain ⟨hstart, hesc, -⟩ := (reserved_eq_false_iff o).1 hres
    rw [heq, List.singleton_append, unescapeTokens_cons, unescapeStep_logical hstart fun h => hesc h.2,
      logicalByte_false, Token.consTo_tByte]

theorem unescapeTokens_escapeBytes (bs : List Byte) :
    unescapeTokens false (escapeBytes bs) = (bs.map Token.tByte, false) := by
  induction bs with
  | nil => rfl
  | cons o bs ih => rw [escapeBytes_cons, unescapeTokens_escByte_append, ih, List.map_cons]

/-- Settles O18: each ESC_BYTE un-escapes to its byte, by induction on the sequence. -/
theorem unescapeOfEscapeIsIdentity : Obligations.UnescapeOfEscapeIsIdentity := by
  intro bs
  exact (unescapedBytes_eq_some_iff _ _).2 (unescapeTokens_escapeBytes bs)

/-- Settles O21: ESCAPE is a `flatMap`, and `unescape_bytes` is its left inverse. -/
theorem escapeAppendAndInjective : Obligations.EscapeAppendAndInjective := by
  refine ⟨fun as bs => ?append, fun as bs h => ?injective⟩
  case append => simp only [escapeBytes_eq_flatMap, List.flatMap_append]
  case injective =>
    have hround := unescapeOfEscapeIsIdentity as
    rw [h, unescapeOfEscapeIsIdentity bs] at hround
    exact (Option.some.inj hround).symm

/-- A byte that is not reserved may stand in front of an escaped sequence. -/
theorem EscapedAlphabet.cons_of_not_reserved {o : Byte} {bs : List Byte} (ho : Params.reserved o = false)
    (h : EscapedAlphabet bs) : EscapedAlphabet (o :: bs) := by
  obtain ⟨hstart, hesc, hxon, hxoff⟩ := (reserved_eq_false_iff o).1 ho
  cases bs with
  | nil => exact ⟨hstart, hxon, hxoff, hesc⟩
  | cons b bs => exact ⟨hstart, hxon, hxoff, fun heq => absurd heq hesc, h⟩

/-- An escape marker may stand in front of an escaped sequence that begins with a partner. -/
theorem EscapedAlphabet.cons_esc {b : Byte} {bs : List Byte} (hb : EscapePartner b) (h : EscapedAlphabet (b :: bs)) :
    EscapedAlphabet (Params.esc :: b :: bs) :=
  ⟨by decide, by decide, by decide, fun _ => hb, h⟩

/-- What follows the escape marker in the pair of a reserved byte is a partner, and is not reserved itself (R112). -/
theorem escapePartner_of_reserved {o : Byte} (h : Params.reserved o = true) :
    EscapePartner (o ^^^ Params.escXor) ∧ Params.reserved (o ^^^ Params.escXor) = false := by
  rcases (reserved_iff o).1 h with rfl | rfl | rfl | rfl <;> decide

/-- Settles O20: each ESC_BYTE keeps the alphabet of what follows it, by induction on the sequence. -/
theorem escapeOutputAlphabet : Obligations.EscapeOutputAlphabet := by
  intro bs
  induction bs with
  | nil => trivial
  | cons o bs ih =>
    rw [escapeBytes_cons]
    rcases escByte_spec o with ⟨hres, heq⟩ | ⟨hres, heq⟩ <;> rw [heq]
    · obtain ⟨hpartner, hplain⟩ := escapePartner_of_reserved hres
      exact EscapedAlphabet.cons_esc hpartner (EscapedAlphabet.cons_of_not_reserved hplain ih)
    · exact EscapedAlphabet.cons_of_not_reserved hres ih

/-- The row that format E selects gives ESC_BYTE of the logical byte (R83, R112). -/
theorem exec_decodeLogical (o : Byte) (s : State) :
    exec (decodeLogical o) s = .next (s.emit (.bytes (escByte o))) := by
  unfold decodeLogical
  split_ifs with h7E h7D h11 h13
  · rw [h7E]
    rfl
  · rw [h7D]
    rfl
  · rw [h11]
    rfl
  · rw [h13]
    rfl
  · rw [escByte, (reserved_eq_false_iff o).2 ⟨h7E, h7D, h11, h13⟩]
    rfl

/-- Settles O13: the rows are closed, and the selected row gives ESC_BYTE of its byte. -/
theorem escByteGivesPairOrByte : Obligations.EscByteGivesPairOrByte := by
  intro s
  refine ⟨rfl, rfl, rfl, rfl, fun _ => rfl, fun o => ?_⟩
  rw [exec_decodeLogical, escByte_eq_ite]
  rfl

end Sys2Proof.Machine

/-! The checksum (41_checksum.md R130 to R137), as numbers modulo 256. -/

namespace Sys2Proof.Machine

theorem checkChecksum_valid_iff_eq (d : List Byte) (c : Byte) : checkChecksum d c = .valid ↔ c = checksumOf d := by
  rw [checkChecksum_iff, ← BitVec.toNat_inj, checksumOf_toNat]
  have := c.isLt
  omega

theorem checkChecksum_mismatch_iff (d : List Byte) (c : Byte) :
    checkChecksum d c = .mismatch ↔ checkChecksum d c ≠ .valid := by
  cases checkChecksum d c <;> simp

theorem foldl_sumStep_toNat (d : List Byte) (sum : Byte) :
    (d.foldl sumStep sum).toNat = (sum.toNat + byteSum d) % 256 := by
  induction d generalizing sum with
  | nil => exact (Nat.mod_eq_of_lt sum.isLt).symm
  | cons b d ih =>
    rw [List.foldl_cons, ih, sumStep_toNat, byteSum]
    omega

/-- The complement is what CKS_GEN subtracts to (R130). -/
theorem checksumOf_eq_not (d : List Byte) : checksumOf d = ~~~(BitVec.ofNat 8 (byteSum d)) := by
  rw [← BitVec.toNat_inj, checksumOf_toNat, BitVec.toNat_not, BitVec.toNat_ofNat]

/-- Settles O23: the byte is `checksumOf`; the sum of a permutation is the same sum. -/
theorem cksGenIsComplementOfSum : Obligations.CksGenIsComplementOfSum := by
  refine ⟨fun s d => ⟨checksumOf d, ?number, ?complement, rfl⟩, fun d d' hperm => ?order⟩
  case number => rw [checksumOf_toNat, byteSum_eq_sum]
  case complement => rw [checksumOf_eq_not, byteSum_eq_sum]
  case order => rw [checksumOf, checksumOf, byteSum_eq_sum, byteSum_eq_sum, (hperm.map _).sum_eq]

/-- Two bytes with the same sum modulo 256 after the same bytes are the same. -/
theorem byte_eq_of_checksumOf_eq {as bs : List Byte} {x y : Byte}
    (h : checksumOf (as ++ x :: bs) = checksumOf (as ++ y :: bs)) : x = y := by
  rw [← BitVec.toNat_inj, checksumOf_toNat, checksumOf_toNat, byteSum_append, byteSum_append] at h
  simp only [byteSum] at h
  have := x.isLt
  have := y.isLt
  rw [← BitVec.toNat_inj]
  omega

/-- Settles O24: the generated checksum is the only valid one, and it tells the bytes at one place apart. -/
theorem cksChkTestsSum : Obligations.CksChkTestsSum := by
  refine ⟨fun s d c => ?test, fun d => ?unique, fun as bs x y c hne hvalid => ?oneByte⟩
  case test =>
    rw [← byteSum_eq_sum]
    rfl
  case unique =>
    exact ⟨checksumOf d, (checkChecksum_valid_iff_eq _ _).2 rfl, fun c => (checkChecksum_valid_iff_eq d c).1⟩
  case oneByte =>
    rw [checkChecksum_mismatch_iff]
    intro hvalid'
    rw [checkChecksum_valid_iff_eq] at hvalid hvalid'
    exact hne (byte_eq_of_checksumOf_eq (hvalid.symm.trans hvalid'))

/-- Settles O25: the running sum is the sum modulo 256. -/
theorem runningSumAndGeneratorDecideCheck : Obligations.RunningSumAndGeneratorDecideCheck := by
  intro d c
  have hrun : (d.foldl sumStep 0).toNat = byteSum d % 256 := by
    rw [foldl_sumStep_toNat]
    exact congrArg (· % 256) (Nat.zero_add _)
  refine ⟨?_, ?_, checkChecksum_valid_iff_eq d c⟩
  · rw [hrun, byteSum_eq_sum]
  · rw [checkChecksum_iff, hrun]
    omega

theorem checksumOf_append (as bs : List Byte) :
    checksumOf (as ++ bs) = checksumOf as - BitVec.ofNat 8 (byteSum bs) := by
  rw [← BitVec.toNat_inj, BitVec.toNat_sub, checksumOf_toNat, checksumOf_toNat, byteSum_append, BitVec.toNat_ofNat]
  omega

/-- Settles O26: the sum of a concatenation is the sum of the sums; one byte is its own sum. -/
theorem checksumIsIncremental : Obligations.ChecksumIsIncremental := by
  refine ⟨fun as bs => ?_, fun d x => ?_⟩
  · rw [checksumOf_append, byteSum_eq_sum]
  · have hx : BitVec.ofNat 8 (byteSum [x]) = x := by simp [byteSum]
    rw [checksumOf_append, hx]

end Sys2Proof.Machine

/-! The builder (43_tx_builder.md R202 to R236): an accepted frame data gives its wire frame, from which it can be
read back. -/

namespace Sys2Proof.Machine

theorem exec_txFrame (p : List Byte) (s : State) : exec (.txFrame p) s = .next (s.emitFrame (txFrame s.cfg p)) := rfl

theorem exec_txFrame_accepted {p : List Byte} {s : State} (h : p.length ≤ s.cfg.maxLen.toNat) :
    exec (.txFrame p) s =
      .next { s with outStream := s.outStream ++ wireFrame p, out := .tx .ok (wireFrame p) } := by
  rw [exec_txFrame, txFrame, if_neg (Nat.not_lt.2 h), State.emitFrame_ok]

theorem exec_txFrame_refused {p : List Byte} {s : State} (h : s.cfg.maxLen.toNat < p.length) :
    exec (.txFrame p) s = .next { s with out := .tx .refusedTooLong [] } := by
  rw [exec_txFrame, txFrame, if_pos h, State.emitFrame_refused]

/-- Settles O27: the two bytes of the length and the checksum as numbers; `MAX_LEN` fits 16 bits. -/
theorem txFrameWrapsOrRefuses : Obligations.TxFrameWrapsOrRefuses := by
  intro s p
  refine ⟨fun hle => ?accepted, exec_txFrame_refused⟩
  have hfits : p.length < 65536 := Nat.lt_of_le_of_lt hle s.cfg.maxLen.isLt
  refine ⟨lengthHi p.length, lengthLo p.length, checksumOf p, length_bytes hfits, ?_, exec_txFrame_accepted hle⟩
  rw [checksumOf_toNat, byteSum_eq_sum]

/-- Settles O28: the frame data is `transmitData`, of 14 bytes and the data. -/
theorem txTransmitEncodesRequest : Obligations.TxTransmitEncodesRequest := by
  intro s a data p hp
  have hexec : exec (.txTransmit a data) s = exec (.txFrame p) s := by
    rw [hp]
    rfl
  have hlen : p.length = 14 + data.length := by
    rw [← transmitData_length s.cfg a data, hp]
    rfl
  rw [hexec, ← hlen]
  exact ⟨rfl, exec_txFrame_accepted, exec_txFrame_refused⟩

/-- Settles O29: the frame data is `remoteAtData`, of 15 bytes and the parameter. -/
theorem txRemoteAtEncodesRequest : Obligations.TxRemoteAtEncodesRequest := by
  intro s a c parameter p hp
  have hexec : exec (.txRemoteAt a c parameter) s = exec (.txFrame p) s := by
    rw [hp]
    rfl
  have hlen : p.length = 15 + parameter.length := by
    rw [← remoteAtData_length s.cfg a c parameter, hp]
    rfl
  rw [hexec, ← hlen]
  exact ⟨rfl, exec_txFrame_accepted, exec_txFrame_refused⟩

/-- Settles O30: an accepted frame is a wire frame, which is `START` and an escaped sequence. -/
theorem wireAlphabet : Obligations.WireAlphabet := by
  intro i s t w h ho
  obtain ⟨-, -, rfl, -⟩ := exec_tx_ok h ho
  exact ⟨_, rfl, escapeOutputAlphabet _⟩

theorem reservedCount_eq_countP (bs : List Byte) : reservedCount bs = bs.countP Params.reserved := by
  induction bs with
  | nil => rfl
  | cons b bs ih => rw [reservedCount, ih, List.countP_cons, Nat.add_comm]

theorem frameBody_length (p : List Byte) : (frameBody p).length = 3 + p.length := by
  simp only [frameBody, List.length_append, List.length_cons, List.length_nil]
  omega

/-- Settles O31: `START`, then the escaped length, data and checksum. -/
theorem wireLength : Obligations.WireLength := by
  intro s t p w h ho
  obtain ⟨-, -, rfl, -⟩ := exec_tx_ok h ho
  have hbody : (escapeBytes (frameBody p)).length = 3 + p.length + reservedCount (frameBody p) := by
    rw [escapeBytes_length, frameBody_length, reservedCount_eq_countP]
  calc (wireFrame p).length
      = (escapeBytes (frameBody p)).length + 1 := rfl
    _ = 4 + p.length + reservedCount (frameBody p) := by omega

/-- The frame data stands in its wire frame (43 R231). -/
theorem wireFrame_injective {p p' : List Byte} (h : wireFrame p = wireFrame p') : p = p' := by
  obtain ⟨-, hinj⟩ := escapeAppendAndInjective
  have hbody : frameBody p = frameBody p' := hinj _ _ (List.cons.inj h).2
  obtain ⟨-, htail⟩ := List.cons.inj hbody
  obtain ⟨-, htail⟩ := List.cons.inj htail
  exact (List.append_inj' htail rfl).1

/-- Two accepted operations with the same wire frame, from states with the same parameters, send the same frame
data. -/
theorem sentData_eq_of_tx_ok {i i' : Instr} {s t t' : State} {w : List Byte} (h : exec i s = .next t)
    (ho : t.out = .tx .ok w) (h' : exec i' s = .next t') (ho' : t'.out = .tx .ok w) :
    sentData s.cfg i = sentData s.cfg i' := by
  obtain ⟨-, -, hw, -⟩ := exec_tx_ok h ho
  obtain ⟨-, -, hw', -⟩ := exec_tx_ok h' ho'
  exact wireFrame_injective (hw.symm.trans hw')

theorem transmitData_injective {cfg : Config} {a a' : LongAddr} {d d' : List Byte}
    (h : transmitData cfg a d = transmitData cfg a' d') : a = a' ∧ d = d' := by
  rcases a
  rcases a'
  simpa [transmitData, LongAddr.bytes, and_assoc] using h

theorem remoteAtData_injective {cfg : Config} {a a' : LongAddr} {c c' : AtCommand} {q q' : List Byte}
    (h : remoteAtData cfg a c q = remoteAtData cfg a' c' q') : a = a' ∧ c = c' ∧ q = q' := by
  rcases a
  rcases a'
  rcases c
  rcases c'
  simpa [remoteAtData, LongAddr.bytes, AtCommand.bytes, and_assoc] using h

/-- Settles O32: the frame data is read back from the wire frame, the fields from the frame data; the first byte of
the frame data tells the kinds apart. -/
theorem builderIsInjective : Obligations.BuilderIsInjective := by
  refine ⟨fun s t t' a a' d d' w h ho h' ho' => ?transmit, fun s t t' a a' c c' q q' w h ho h' ho' => ?remoteAt,
    fun s t t' a a' c d q w w' htype h ho h' ho' hw => ?kinds⟩
  case transmit => exact transmitData_injective (sentData_eq_of_tx_ok h ho h' ho')
  case remoteAt => exact remoteAtData_injective (sentData_eq_of_tx_ok h ho h' ho')
  case kinds =>
    have hdata : transmitData s.cfg a d = remoteAtData s.cfg a' c q :=
      sentData_eq_of_tx_ok h ho h' (ho'.trans (congrArg _ hw.symm))
    exact htype (List.cons.inj hdata).1

end Sys2Proof.Machine

/-! Recognition of a well-formed frame (42_rx_synchronizer.md R180, R184). An escaped byte in a frame does what its
logical byte does; so the length, the data and the checksum of a wire frame are taken one logical byte after the
other, and all of them but the last quietly. -/

namespace Sys2Proof.Machine

/-- The chunk takes the registers from `r` to `r'`, and every output of it is `Incomplete` without `WARN`. -/
def Rx.Quietly (m : Word16) (bs : List Byte) (r r' : Rx) : Prop :=
  Rx.feedBytes m bs r = (r', List.replicate bs.length ⟨.incomplete, false⟩)

theorem Rx.Quietly.append {m : Word16} {as bs : List Byte} {r r' r'' : Rx} (h : Rx.Quietly m as r r')
    (h' : Rx.Quietly m bs r' r'') : Rx.Quietly m (as ++ bs) r r'' := by
  unfold Rx.Quietly at *
  rw [Rx.feedBytes_append, h, h', List.replicate_append_replicate, List.length_append]

/-- Where the outputs of the first part are quiet, what the whole gives is read off the second part. -/
theorem Rx.Quietly.feedBytes_append {m : Word16} {as : List Byte} {r r' : Rx} (h : Rx.Quietly m as r r')
    (bs : List Byte) :
    Rx.feedBytes m (as ++ bs) r =
      ((Rx.feedBytes m bs r').1, List.replicate as.length ⟨.incomplete, false⟩ ++ (Rx.feedBytes m bs r').2) := by
  rw [Rx.feedBytes_append, h]

/-- A pending escape is used up by the logical byte, whatever that does. -/
theorem Rx.takeLogical_escapeMarker (m : Word16) (v : Byte) {r : Rx} (hps : r.ps ≠ .idle) :
    r.escapeMarker.1.takeLogical m v = r.takeLogical m v := by
  rcases r with ⟨ps, lhv, len, rem, sum, escp, buf⟩
  cases ps with
  | idle => exact absurd rfl hps
  | len => cases lhv <;> rfl
  | payload => rfl
  | csum => rfl

/-- Feeding ESC_BYTE of a byte in a frame: the escape marker is quiet, and the rest does what the byte does as a
logical one (42 R158, 40 R112). -/
theorem Rx.feedBytes_escByte (m : Word16) (o : Byte) {r : Rx} (hps : r.ps ≠ .idle) (hescp : r.escp = false) :
    Rx.feedBytes m (escByte o) r =
      ((r.takeLogical m o).1,
        List.replicate ((escByte o).length - 1) ⟨.incomplete, false⟩ ++ [(r.takeLogical m o).2]) := by
  rcases escByte_spec o with ⟨hres, heq⟩ | ⟨hres, heq⟩
  · have hb : givesLogical r.escapeMarker.1.view (o ^^^ Params.escXor) = true :=
      (givesLogical_iff _ _).2 ⟨partner_ne_start hres, fun h => Bool.noConfusion h.1⟩
    have hundo : logicalByte r.escapeMarker.1.escp (o ^^^ Params.escXor) = o := logicalByte_logicalByte true o
    have hps' : r.escapeMarker.1.ps ≠ .idle := hps
    rw [heq, Rx.feedBytes_cons, Rx.feed_esc m hps hescp, Rx.feedBytes_cons, Rx.feed_logical m hps' hb, hundo,
      Rx.takeLogical_escapeMarker m o hps]
    rfl
  · obtain ⟨hstart, hesc, -⟩ := (reserved_eq_false_iff o).1 hres
    have hb : givesLogical r.view o = true := (givesLogical_iff _ _).2 ⟨hstart, fun h => hesc h.2⟩
    rw [heq, Rx.feedBytes_cons, Rx.feed_logical m hps hb, hescp]
    rfl

theorem escByte_length_pos (o : Byte) : 1 ≤ (escByte o).length := by
  rw [escByte_length]
  omega

theorem Rx.quietly_escByte {m : Word16} {o : Byte} {r r' : Rx} (hps : r.ps ≠ .idle) (hescp : r.escp = false)
    (h : r.takeLogical m o = (r', ⟨.incomplete, false⟩)) : Rx.Quietly m (escByte o) r r' := by
  have hlen : (escByte o).length - 1 + 1 = (escByte o).length := Nat.sub_add_cancel (escByte_length_pos o)
  rw [Rx.Quietly, Rx.feedBytes_escByte m o hps hescp, h, ← List.replicate_succ', hlen]

/-- The registers in a frame of declared length `n` when the frame data `buf` has been taken of it. -/
def Rx.collecting (n : Word16) (buf : List Byte) : Rx where
  ps := if buf.length = n.toNat then .csum else .payload
  lhv := false
  len := n
  rem := BitVec.ofNat 16 (n.toNat - buf.length)
  sum := buf.foldl sumStep 0
  escp := false
  buf := buf

theorem Rx.collecting_ps_ne_idle (n : Word16) (buf : List Byte) : (Rx.collecting n buf).ps ≠ .idle := by
  unfold Rx.collecting
  split_ifs <;> exact ParserState.noConfusion

/-- The registers after the first length byte of a frame just begun (42 R160). -/
def Rx.highTaken (hi : Byte) : Rx where
  ps := .len
  lhv := true
  len := lenWithHigh 0 hi
  rem := 0
  sum := 0
  escp := false
  buf := []

theorem Rx.highTaken_len_toNat (hi : Byte) : (Rx.highTaken hi).len.toNat = hi.toNat * 256 := by
  simp [Rx.highTaken, lenWithHigh_toNat]

/-- A legal second length byte begins the collection, with nothing to collect if the length is zero (42 R162). -/
theorem Rx.lengthLow_collecting {m n : Word16} {hi lo : Byte} (hn : n.toNat = hi.toNat * 256 + lo.toNat)
    (hle : n.toNat ≤ m.toNat) :
    Rx.lengthLow m lo (Rx.highTaken hi) = (Rx.collecting n [], ⟨.incomplete, false⟩) := by
  have hlen : lenWithLow (Rx.highTaken hi).len lo = n := by
    rw [← BitVec.toNat_inj, lenWithLow_toNat, Rx.highTaken_len_toNat, hn]
    omega
  rcases Rx.lengthLow_parts m lo (Rx.highTaken hi) with ⟨hover, -⟩ | ⟨hzero, heq⟩ | ⟨hne, -, heq⟩
  · rw [← lenWithLow_toNat, hlen] at hover
    omega
  · rw [← lenWithLow_toNat, hlen] at hzero
    obtain rfl : n = 0 := BitVec.eq_of_toNat_eq hzero
    rw [heq]
    rfl
  · rw [← lenWithLow_toNat, hlen] at hne
    rw [heq, hlen]
    simp [Rx.collecting, Rx.highTaken, Ne.symm hne]

/-- A byte of the frame data is collected (42 R166). -/
theorem Rx.dataByte_collecting {n : Word16} {buf : List Byte} (v : Byte) (h : buf.length < n.toNat) :
    (Rx.collecting n buf).ps = .payload ∧
      (Rx.collecting n buf).dataByte v = (Rx.collecting n (buf ++ [v]), ⟨.incomplete, false⟩) := by
  have hps : (Rx.collecting n buf).ps = .payload := if_neg (Nat.ne_of_lt h)
  have hrem : (Rx.collecting n buf).rem.toNat = n.toNat - buf.length := by
    have := n.isLt
    simp only [Rx.collecting, BitVec.toNat_ofNat]
    omega
  have hrem' : (Rx.collecting n buf).rem - 1 = BitVec.ofNat 16 (n.toNat - (buf.length + 1)) := by
    rw [← BitVec.toNat_inj, rem_pred_toNat (by omega), hrem, BitVec.toNat_ofNat]
    omega
  have hlast : n.toNat - buf.length = 1 ↔ buf.length + 1 = n.toNat := by omega
  refine ⟨hps, ?_⟩
  rw [Rx.dataByte_eq, hrem', hrem, hps, if_congr hlast rfl rfl]
  simp [Rx.collecting]

/-- The generated checksum completes the collected frame data (42 R170, 41 R136). -/
theorem Rx.checksumByte_collecting {n : Word16} {d : List Byte} (h : d.length = n.toNat) :
    (Rx.collecting n d).ps = .csum ∧
      (Rx.collecting n d).checksumByte (checksumOf d) = (Rx.cleanIdle, ⟨.complete d, false⟩) := by
  obtain ⟨-, hcheck, hgen⟩ := runningSumAndGeneratorDecideCheck d (checksumOf d)
  have hvalid : ((Rx.collecting n d).sum.toNat + (checksumOf d).toNat) % 256 = 0xFF := hcheck.1 (hgen.2 rfl)
  refine ⟨if_pos h, ?_⟩
  rw [Rx.checksumByte_eq, if_pos hvalid]
  rfl

/-- The frame data is collected quietly, byte by byte. -/
theorem Rx.quietly_data (m : Word16) {n : Word16} {d buf : List Byte} (h : buf.length + d.length = n.toNat) :
    Rx.Quietly m (escapeBytes d) (Rx.collecting n buf) (Rx.collecting n (buf ++ d)) := by
  induction d generalizing buf with
  | nil => rw [List.append_nil]; rfl
  | cons v d ih =>
    rw [List.length_cons] at h
    obtain ⟨hps, hdata⟩ := Rx.dataByte_collecting (n := n) (buf := buf) v (by omega)
    have hfirst : Rx.Quietly m (escByte v) (Rx.collecting n buf) (Rx.collecting n (buf ++ [v])) :=
      Rx.quietly_escByte (Rx.collecting_ps_ne_idle n buf) rfl ((Rx.takeLogical_dataByte m v hps).trans hdata)
    have hrest := ih (buf := buf ++ [v]) (by rw [List.length_append, List.length_singleton]; omega)
    rw [List.append_assoc, List.singleton_append] at hrest
    exact hfirst.append hrest

/-- The two length bytes are taken quietly. -/
theorem Rx.quietly_length {m n : Word16} {hi lo : Byte} (hn : n.toNat = hi.toNat * 256 + lo.toNat)
    (hle : n.toNat ≤ m.toNat) :
    Rx.Quietly m (escByte hi ++ escByte lo) { Rx.cleanIdle with ps := .len } (Rx.collecting n []) := by
  have hne : ParserState.len ≠ .idle := ParserState.noConfusion
  have hhigh : Rx.Quietly m (escByte hi) { Rx.cleanIdle with ps := .len } (Rx.highTaken hi) :=
    Rx.quietly_escByte hne rfl rfl
  have hlow : Rx.Quietly m (escByte lo) (Rx.highTaken hi) (Rx.collecting n []) :=
    Rx.quietly_escByte hne rfl (Rx.lengthLow_collecting hn hle)
  exact hhigh.append hlow

/-- What the receiver makes of a wire frame, from any registers (42 R180). -/
theorem Rx.feedBytes_wireFrame {m : Word16} {d : List Byte} (hle : d.length ≤ m.toNat) (r : Rx) :
    Rx.feedBytes m (wireFrame d) r =
      (Rx.cleanIdle,
        (if r.ps = .idle then ⟨.incomplete, false⟩ else ⟨.invalid .unexpectedStart, true⟩) ::
          (List.replicate ((escapeBytes (frameBody d)).length - 1) ⟨.incomplete, false⟩ ++
            [⟨.complete d, false⟩])) := by
  have hfits : d.length < 65536 := Nat.lt_of_le_of_lt hle m.isLt
  have hn : (BitVec.ofNat 16 d.length).toNat = d.length := Nat.mod_eq_of_lt hfits
  have hbytes := length_bytes hfits
  have hlength := Rx.quietly_length (m := m) (n := BitVec.ofNat 16 d.length) (hn.trans hbytes.symm) (hn.le.trans hle)
  have hdata := Rx.quietly_data m (buf := []) (hn.trans (Nat.zero_add _).symm).symm
  obtain ⟨hps, hcks⟩ := Rx.checksumByte_collecting hn.symm
  have hlast := Rx.feedBytes_escByte m (checksumOf d) (Rx.collecting_ps_ne_idle (BitVec.ofNat 16 d.length) d) rfl
  rw [Rx.takeLogical_checksumByte m _ hps, hcks] at hlast
  have hbody : escapeBytes (frameBody d) =
      escByte (lengthHi d.length) ++ escByte (lengthLo d.length) ++ escapeBytes d ++ escByte (checksumOf d) := by
    simp [escapeBytes_eq_flatMap, frameBody]
  have hpos := escByte_length_pos (checksumOf d)
  have hcut : (escByte (lengthHi d.length) ++ escByte (lengthLo d.length) ++ escapeBytes d).length +
      ((escByte (checksumOf d)).length - 1) = (escapeBytes (frameBody d)).length - 1 := by
    rw [hbody, List.length_append (bs := escByte (checksumOf d))]
    omega
  rw [← hcut, wireFrame, Rx.feedBytes_cons, Rx.feed_start, Rx.startMarker_eq, hbody,
    (hlength.append hdata).feedBytes_append, List.nil_append, hlast, ← List.append_assoc,
    List.replicate_append_replicate]

/-- Settles O52: the wire frame is `START` and the escaped body. -/
theorem wellFormedFrameIsRecognised : Obligations.WellFormedFrameIsRecognised := by
  intro s d w hle hw
  have hwire : 0x7E :: w = wireFrame d := congrArg _ hw
  have hlen : (escapeBytes (frameBody d)).length = w.length := congrArg List.length hw.symm
  rw [hwire, exec_feedChunk, Rx.feedBytes_wireFrame hle, hlen]
  rfl

theorem eventsOf_replicate_incomplete_append (k : Nat) (os : List RxOut) :
    eventsOf (List.replicate k ⟨.incomplete, false⟩ ++ os) = eventsOf os := by
  simp [eventsOf]

/-- Settles O53: an accepted frame is the wire frame of the data sent, and the receiver recognises that. -/
theorem acceptedCommandLoopsBack : Obligations.AcceptedCommandLoopsBack := by
  intro i s t p w hi h ho
  have hp : p = sentData s.cfg i := by
    rcases hi with rfl | ⟨a, d, rfl, rfl⟩ | ⟨a, c, q, rfl, rfl⟩ <;> rfl
  obtain ⟨-, hle, rfl, rfl⟩ := exec_tx_ok h ho
  rw [← hp] at hle ⊢
  refine ⟨_, _, exec_feedChunk _ _, rfl, ?_, ?_⟩
  · rw [Rx.feedBytes_wireFrame hle]
    exact eventsOf_replicate_incomplete_append (_ + 1) _
  · rw [State.emitChunk_rx, Rx.feedBytes_wireFrame hle]

end Sys2Proof.Machine

/-! A frame in progress (40_escape.md R116; 42_rx_synchronizer.md R182, R186, R192). In a frame FEED is the un-escape
step and then the logical byte it gives; so what has been taken since the `START` is what UNESCAPE gives of the raw
bytes, and the raw bytes still to come are bounded. -/

namespace Sys2Proof.Machine

/-- A logical byte uses up a pending escape, whatever it does. -/
theorem Rx.takeLogical_escp (m : Word16) (v : Byte) {r : Rx} (hps : r.ps ≠ .idle) :
    (r.takeLogical m v).1.escp = false := by
  rcases Rx.takeLogical_parts m v hps with ⟨-, -, heq⟩ | ⟨-, -, heq⟩ | ⟨-, heq⟩ | ⟨-, heq⟩ <;> rw [heq]
  · rfl
  · rcases Rx.lengthLow_parts m v r with ⟨-, hlow⟩ | ⟨-, hlow⟩ | ⟨-, -, hlow⟩ <;> simp [hlow]
  · rfl
  · rw [Rx.checksumByte_eq]
    rfl

theorem unescapeStep_of_givesLogical {r : Rx} {b : Byte} (hb : givesLogical r.view b = true) :
    unescapeStep r.escp b = (false, .tByte (logicalByte r.escp b)) := by
  obtain ⟨hstart, hesc⟩ := (givesLogical_iff _ _).1 hb
  exact unescapeStep_logical hstart hesc

/-- In a frame `ESCP` becomes the next flag of UNESC_STEP (40 R116). -/
theorem Rx.feed_escp (m : Word16) (b : Byte) {r : Rx} (hps : r.ps ≠ .idle) :
    (r.feed m b).1.escp = (unescapeStep r.escp b).1 := by
  rcases Rx.feed_parts m b r with ⟨rfl, heq⟩ | ⟨-, hidle, -⟩ | ⟨rfl, -, hescp, heq⟩ | ⟨hb, -, heq⟩
  · rw [heq, Rx.startMarker_eq]
    rfl
  · exact absurd hidle hps
  · rw [heq, hescp]
    rfl
  · rw [heq, unescapeStep_of_givesLogical hb, Rx.takeLogical_escp m _ hps]

/-- As long as the receiver stays in a frame, `ESCP` is the flag of UNESCAPE. -/
theorem Rx.feedBytes_escp (m : Word16) {bs : List Byte} {r : Rx}
    (hframe : ∀ k < bs.length, (Rx.feedBytes m (bs.take k) r).1.ps ≠ .idle) :
    (Rx.feedBytes m bs r).1.escp = (unescapeTokens r.escp bs).2 := by
  induction bs generalizing r with
  | nil => rfl
  | cons b bs ih =>
    have hps : r.ps ≠ .idle := hframe 0 (Nat.succ_pos _)
    rw [unescapeTokens_cons, ← Rx.feed_escp m b hps]
    exact ih fun k hk => hframe (k + 1) (Nat.succ_lt_succ hk)

/-- Settles O17: the flag of UNESC_STEP is carried from byte to byte. -/
theorem escapePendingIsUnescapeFlag : Obligations.EscapePendingIsUnescapeFlag := by
  intro s t bs hframe h
  rw [exec_feedChunk, Host.Outcome.next.injEq] at h
  rw [← h, State.emitChunk_rx]
  exact Rx.feedBytes_escp s.cfg.maxLen fun k hk => hframe k _ hk (exec_feedChunk _ _)

/-- After a raw `START` the registers and the further outputs are the same whatever the registers were before. -/
theorem Rx.feedBytes_start (m : Word16) (bs : List Byte) (r : Rx) :
    Rx.feedBytes m (Params.start :: bs) r =
      ((Rx.feedBytes m bs { Rx.cleanIdle with ps := .len }).1,
        r.startMarker.2 :: (Rx.feedBytes m bs { Rx.cleanIdle with ps := .len }).2) := by
  rw [Rx.feedBytes_cons, Rx.feed_start, Rx.startMarker_eq]

/-- Settles O51: the registers after a raw `START` do not depend on those before. -/
theorem startResynchronizes : Obligations.StartResynchronizes := by
  intro s s' t t' bs os os' hmax h ho h' ho'
  have hstart := Rx.feedBytes_start s.cfg.maxLen bs
  have hrun : exec (.feedChunk (0x7E :: bs)) s = _ := exec_feedChunk (Params.start :: bs) s
  have hrun' : exec (.feedChunk (0x7E :: bs)) s' = _ := exec_feedChunk (Params.start :: bs) s'
  rw [hrun, Host.Outcome.next.injEq, hstart] at h
  rw [hrun', Host.Outcome.next.injEq, ← hmax, hstart] at h'
  subst h h'
  obtain rfl := StepOut.rxChunk.inj ho
  obtain rfl := StepOut.rxChunk.inj ho'
  exact ⟨rfl, rfl⟩

/-! The bound on a frame (R186). -/

/-- The logical bytes that a frame in progress can still take. -/
def Rx.logicalLeft (m : Word16) (r : Rx) : Nat :=
  match r.ps, r.lhv with
  | .idle, _ => 0
  | .len, false => m.toNat + 3
  | .len, true => m.toNat + 2
  | .payload, _ => r.rem.toNat + 1
  | .csum, _ => 1

/-- The raw bytes that a frame in progress can still take: two for each logical byte, one of them gone if an escape
is pending. -/
def Rx.rawLeft (m : Word16) (r : Rx) : Nat := 2 * r.logicalLeft m - if r.escp then 1 else 0

theorem Rx.logicalLeft_pos (m : Word16) {r : Rx} (hps : r.ps ≠ .idle) : 1 ≤ r.logicalLeft m := by
  unfold Rx.logicalLeft
  split
  · contradiction
  all_goals omega

/-- Each logical byte brings the end of the frame nearer. -/
theorem Rx.takeLogical_logicalLeft_lt {m : Word16} (v : Byte) {r : Rx} (hps : r.ps ≠ .idle) (hinv : r.Inv m) :
    (r.takeLogical m v).1.logicalLeft m < r.logicalLeft m := by
  rcases Rx.takeLogical_parts m v hps with ⟨hlen, hlhv, heq⟩ | ⟨hlen, hlhv, heq⟩ | ⟨hdata, heq⟩ | ⟨hcsum, heq⟩ <;>
    rw [heq]
  · simp [Rx.lengthHigh, Rx.logicalLeft, hlen, hlhv]
  · rcases Rx.lengthLow_parts m v r with ⟨-, hlow⟩ | ⟨-, hlow⟩ | ⟨-, hle, hlow⟩ <;>
      simp only [hlow, Rx.logicalLeft, hlen, hlhv, Rx.cleanIdle_ps, lenWithLow_toNat]
    all_goals omega
  · obtain ⟨-, hpos, -⟩ := (Rx.inv_iff_of_payload hdata).1 hinv
    have hrem := rem_pred_toNat hpos
    by_cases hlast : r.rem.toNat = 1
    · simp [Rx.dataByte_eq, Rx.logicalLeft, hlast, hdata]
    · simp only [Rx.dataByte_eq, Rx.logicalLeft, if_neg hlast, hdata, hrem]
      omega
  · simp [Rx.checksumByte_eq, Rx.logicalLeft, hcsum]

/-- In a frame each raw byte but `START` brings the end of the frame nearer. -/
theorem Rx.feed_rawLeft_lt {m : Word16} {b : Byte} {r : Rx} (hb : b ≠ Params.start) (hps : r.ps ≠ .idle)
    (hinv : r.Inv m) : (r.feed m b).1.rawLeft m < r.rawLeft m := by
  have hpos := Rx.logicalLeft_pos m hps
  rcases Rx.feed_parts m b r with ⟨hstart, -⟩ | ⟨-, hidle, -⟩ | ⟨-, -, hescp, heq⟩ | ⟨-, -, heq⟩
  · exact absurd hstart hb
  · exact absurd hidle hps
  · have hsame : r.escapeMarker.1.logicalLeft m = r.logicalLeft m := rfl
    have hset : r.escapeMarker.1.escp = true := rfl
    rw [heq, Rx.rawLeft, Rx.rawLeft, hsame, hset, hescp, if_pos rfl, if_neg Bool.false_ne_true]
    omega
  · have hlt := Rx.takeLogical_logicalLeft_lt (logicalByte r.escp b) hps hinv
    rw [heq, Rx.rawLeft, Rx.rawLeft, Rx.takeLogical_escp m _ hps, if_neg Bool.false_ne_true]
    split <;> omega

/-- A receiver that is fed enough bytes without a `START` comes to `IDLE`. -/
theorem Rx.feedBytes_reaches_idle {m : Word16} {bs : List Byte} {r : Rx} (hinv : r.Inv m) (hbs : Params.start ∉ bs)
    (hlen : r.rawLeft m ≤ bs.length) : ∃ k ≤ r.rawLeft m, (Rx.feedBytes m (bs.take k) r).1.ps = .idle := by
  induction bs generalizing r with
  | nil =>
    refine ⟨0, Nat.zero_le _, ?_⟩
    by_contra hps
    have hpos := Rx.logicalLeft_pos (r := r) m hps
    rw [Rx.rawLeft, List.length_nil] at hlen
    split at hlen <;> omega
  | cons b bs ih =>
    by_cases hps : r.ps = .idle
    · exact ⟨0, Nat.zero_le _, hps⟩
    rw [List.mem_cons, not_or] at hbs
    obtain ⟨hb, hbs⟩ := hbs
    have hlt := Rx.feed_rawLeft_lt (Ne.symm hb) hps hinv
    rw [List.length_cons] at hlen
    obtain ⟨k, hk, hidle⟩ := ih (Rx.feed_inv b hinv) hbs (by omega)
    exact ⟨k + 1, by omega, hidle⟩

/-- Settles O55: a frame just begun can take twice its three framing bytes and `MAX_LEN` data bytes. -/
theorem frameEndsWithinBound : Obligations.FrameEndsWithinBound := by
  intro s bs hbs hlen
  obtain ⟨k, hk, hidle⟩ := Rx.feedBytes_reaches_idle (Rx.frameBegun_inv s.cfg.maxLen) hbs hlen
  refine ⟨k, _, hk, exec_feedChunk (Params.start :: bs.take k) s, ?_⟩
  rw [State.emitChunk_rx, Rx.feedBytes_start]
  exact hidle

/-! Soundness (R192, R126): what has been taken since the last raw `START` is what UNESCAPE gives of the raw bytes. -/

/-- The logical bytes that a frame in progress has taken, read back from the registers. -/
def Rx.taken (r : Rx) : List Byte :=
  match r.ps, r.lhv with
  | .idle, _ => []
  | .len, false => []
  | .len, true => [r.len.extractLsb' 8 8]
  | .payload, _ => [r.len.extractLsb' 8 8, r.len.extractLsb' 0 8] ++ r.buf
  | .csum, _ => [r.len.extractLsb' 8 8, r.len.extractLsb' 0 8] ++ r.buf

theorem lenWithHigh_highByte (l : Word16) (v : Byte) : (lenWithHigh l v).extractLsb' 8 8 = v := by
  rw [highByte_eq_iff, lenWithHigh_toNat]
  omega

theorem lenWithLow_highByte (l : Word16) (v : Byte) : (lenWithLow l v).extractLsb' 8 8 = l.extractLsb' 8 8 := by
  have := v.isLt
  rw [highByte_eq_iff, (highByte_eq_iff l _).1 rfl |>.symm, lenWithLow_toNat]
  omega

theorem lowByte_eq_iff (l : Word16) (v : Byte) : l.extractLsb' 0 8 = v ↔ l.toNat % 256 = v.toNat := by
  rw [← BitVec.toNat_inj, BitVec.extractLsb'_toNat, Nat.shiftRight_zero]

/-- The two bytes of a length in the register are those of the count (43 R202). -/
theorem lengthHi_toNat (l : Word16) : lengthHi l.toNat = l.extractLsb' 8 8 := by
  have := l.isLt
  rw [eq_comm, highByte_eq_iff, lengthHi, BitVec.toNat_ofNat]
  omega

theorem lengthLo_toNat (l : Word16) : lengthLo l.toNat = l.extractLsb' 0 8 := by
  rw [eq_comm, lowByte_eq_iff, lengthLo, BitVec.toNat_ofNat]

theorem lenWithLow_lowByte (l : Word16) (v : Byte) : (lenWithLow l v).extractLsb' 0 8 = v := by
  have := v.isLt
  rw [lowByte_eq_iff, lenWithLow_toNat]
  omega

/-- A logical byte that does not end the frame is taken. -/
theorem Rx.takeLogical_taken {m : Word16} {v : Byte} {r : Rx} (hinv : r.Inv m) (hps : r.ps ≠ .idle)
    (hps' : (r.takeLogical m v).1.ps ≠ .idle) : (r.takeLogical m v).1.taken = r.taken ++ [v] := by
  rcases Rx.takeLogical_parts m v hps with ⟨hlen, hlhv, heq⟩ | ⟨hlen, hlhv, heq⟩ | ⟨hdata, heq⟩ | ⟨hcsum, heq⟩ <;>
    rw [heq] at hps' ⊢
  · simp [Rx.taken, Rx.lengthHigh, hlen, hlhv, lenWithHigh_highByte]
  · obtain ⟨-, -, hbuf, -⟩ := (Rx.inv_iff_of_len hlen).1 hinv
    rcases Rx.lengthLow_parts m v r with ⟨-, hlow⟩ | ⟨hzero, hlow⟩ | ⟨-, -, hlow⟩ <;> rw [hlow] at hps' ⊢
    · exact absurd Rx.cleanIdle_ps hps'
    · rw [← lenWithLow_eq_zero_iff] at hzero
      simp only [Rx.taken, hlen, hlhv, hbuf, ← hzero, lenWithLow_highByte, lenWithLow_lowByte]
      rfl
    · simp only [Rx.taken, hlen, hlhv, hbuf, lenWithLow_highByte, lenWithLow_lowByte]
      rfl
  · by_cases hlast : r.rem.toNat = 1 <;> simp [Rx.dataByte_eq, Rx.taken, hdata, hlast]
  · rw [Rx.checksumByte_eq] at hps'
    exact absurd Rx.cleanIdle_ps hps'

/-- The bytes `bs` lead to a frame in progress with the registers `r`: their last `START` began it, and what follows
un-escapes to what has been taken. -/
def Rx.BegunBy (bs : List Byte) (r : Rx) : Prop :=
  ∃ before body : List Byte, bs = before ++ Params.start :: body ∧ Params.start ∉ body ∧
    unescapeTokens false body = (r.taken.map Token.tByte, r.escp)

theorem unescapeTokens_concat {body : List Byte} {ts : List Token} {e : Bool} (b : Byte)
    (h : unescapeTokens false body = (ts, e)) :
    unescapeTokens false (body ++ [b]) = (ts ++ (unescapeTokens e [b]).1, (unescapeTokens e [b]).2) := by
  rw [unescapeComposesOverChunks, h]

/-- FEED keeps track of the frame in progress. -/
theorem Rx.feed_begunBy {m : Word16} {bs : List Byte} {r : Rx} (b : Byte) (hinv : r.Inv m)
    (h : r.ps ≠ .idle → r.BegunBy bs) (hps' : (r.feed m b).1.ps ≠ .idle) : (r.feed m b).1.BegunBy (bs ++ [b]) := by
  rcases Rx.feed_parts m b r with ⟨rfl, heq⟩ | ⟨-, hidle, heq⟩ | ⟨rfl, hps, hescp, heq⟩ | ⟨hb, hps, heq⟩ <;>
    rw [heq] at hps' ⊢
  · rw [Rx.startMarker_eq]
    exact ⟨bs, [], rfl, List.not_mem_nil, rfl⟩
  · exact absurd hidle hps'
  · obtain ⟨before, body, rfl, hbody, htokens⟩ := h hps
    refine ⟨before, body ++ [Params.esc], by simp, ?_, ?_⟩
    · have hne : Params.start ≠ Params.esc := by decide
      simp [hbody, hne]
    · rw [hescp] at htokens
      rw [unescapeTokens_concat _ htokens, unescapeTokens_esc, unescapeTokens_nil, List.append_nil]
      rfl
  · obtain ⟨before, body, rfl, hbody, htokens⟩ := h hps
    obtain ⟨hstart, -⟩ := (givesLogical_iff _ _).1 hb
    refine ⟨before, body ++ [b], by simp, ?_, ?_⟩
    · simp [hbody, Ne.symm hstart]
    · rw [unescapeTokens_concat _ htokens, unescapeTokens_cons, unescapeStep_of_givesLogical hb,
        Rx.takeLogical_taken hinv hps hps', Rx.takeLogical_escp m _ hps, List.map_append]
      rfl

/-- From clean Idle, a frame in progress was begun by the last `START` fed. -/
theorem Rx.feedBytes_begunBy (m : Word16) (bs : List Byte) :
    (Rx.feedBytes m bs Rx.cleanIdle).1.ps ≠ .idle →
      Rx.BegunBy bs (Rx.feedBytes m bs Rx.cleanIdle).1 := by
  induction bs using List.reverseRecOn with
  | nil => exact fun hps => absurd Rx.cleanIdle_ps hps
  | append_singleton bs b ih =>
    rw [Rx.feedBytes_append]
    exact Rx.feed_begunBy b (Rx.feedBytes_inv bs (Rx.cleanIdle_inv m)) ih

/-- Where the invariants hold, the running sum decides the check of the buffer (41 R134, R136). -/
theorem Rx.Inv.sum_check_iff {m : Word16} {r : Rx} (hinv : r.Inv m) (hps : r.ps = .csum) (v : Byte) :
    (r.sum.toNat + v.toNat) % 256 = 0xFF ↔ v = checksumOf r.buf := by
  obtain ⟨-, -, -, -, hsum⟩ := (Rx.inv_iff_of_csum hps).1 hinv
  rw [← checkChecksum_valid_iff_eq, checkChecksum_iff, hsum]
  omega

/-- In a frame that meets the invariants, what is delivered has the declared length and its checksum (42 R164). -/
theorem Rx.Inv.complete {m : Word16} {b : Byte} {r : Rx} {f : List Byte} (hinv : r.Inv m)
    (h : (r.feed m b).2.res = .complete f) :
    f.length = r.len.toNat ∧ r.len.toNat ≤ m.toNat ∧ logicalByte r.escp b = checksumOf f := by
  obtain ⟨-, hps, rfl, hvalid⟩ := Rx.feed_complete h
  obtain ⟨-, -, hbuf, hle, -⟩ := (Rx.inv_iff_of_csum hps).1 hinv
  exact ⟨hbuf, hle, (Rx.Inv.sum_check_iff hinv hps _).1 hvalid⟩

/-- The logical byte that completes a frame comes after the bytes that un-escape to the frame's length and data. -/
theorem Rx.feed_complete_sound {m : Word16} {b : Byte} {bs f : List Byte}
    (h : ((Rx.feedBytes m bs Rx.cleanIdle).1.feed m b).2.res = .complete f) :
    ∃ before body : List Byte, bs ++ [b] = before ++ Params.start :: body ∧ Params.start ∉ body ∧
      f.length ≤ m.toNat ∧ unescapedBytes body = some (frameBody f) := by
  have hinv := Rx.feedBytes_inv bs (Rx.cleanIdle_inv m)
  have hbegun := Rx.feedBytes_begunBy m bs
  generalize (Rx.feedBytes m bs Rx.cleanIdle).1 = r at h hinv hbegun
  obtain ⟨hlen, hle, hcks⟩ := Rx.Inv.complete hinv h
  obtain ⟨hb, hps, rfl, -⟩ := Rx.feed_complete h
  obtain ⟨before, body, rfl, hbody, htokens⟩ := hbegun (by rw [hps]; exact ParserState.noConfusion)
  have htaken : r.taken = [lengthHi r.buf.length, lengthLo r.buf.length] ++ r.buf := by
    rw [Rx.taken, hps, hlen, lengthHi_toNat, lengthLo_toNat]
  have hne : b ≠ Params.start := ((givesLogical_iff _ _).1 hb).1
  refine ⟨before, body ++ [b], by simp, by simp [hbody, Ne.symm hne], by omega, ?_⟩
  rw [unescapedBytes_eq_some_iff, unescapeTokens_concat b htokens, unescapeTokens_cons,
    unescapeStep_of_givesLogical hb, hcks, htaken, frameBody, List.map_append (l₂ := [checksumOf r.buf])]
  rfl

/-- Settles O54: at the checksum the registers hold the two bytes of the length and the data, which the bytes since
the last `START` un-escape to. -/
theorem onlyFramesAreReported : Obligations.OnlyFramesAreReported := by
  intro s t bs os f w hidle h ho hlast
  rw [exec_feedChunk, Host.Outcome.next.injEq] at h
  subst h
  obtain rfl := StepOut.rxChunk.inj ho
  rw [hidle] at hlast
  rcases bs.eq_nil_or_concat with rfl | ⟨bs, b, rfl⟩
  · cases hlast
  · rw [List.concat_eq_append, Rx.feedBytes_append] at hlast
    have hres : ((Rx.feedBytes s.cfg.maxLen bs Rx.cleanIdle).1.feed s.cfg.maxLen b).2 = ⟨.complete f, w⟩ := by
      simpa [Rx.feedBytes_cons] using hlast
    rw [List.concat_eq_append]
    exact Rx.feed_complete_sound (congrArg RxOut.res hres)

end Sys2Proof.Machine

/-! The operation map and the encoder (30_encoding.md R87, R88, R98, R101), each inverse to the other on the
operations that the registers allow. -/

namespace Sys2Proof.Machine

/-- The operation that a logical byte selects in a frame: rows 4 to 7 of R88. -/
def logicalInstr (view : RxView) (v : Byte) : Instr :=
  if view.ps = .len ∧ view.lhv = false then .rxLenHi v
  else if view.ps = .len then .rxLenLo v
  else if view.ps = .payload then .rxData v
  else .rxCsum v

theorem logicalInstr_lengthHigh {view : RxView} (v : Byte) (hps : view.ps = .len) (hlhv : view.lhv = false) :
    logicalInstr view v = .rxLenHi v := if_pos ⟨hps, hlhv⟩

theorem logicalInstr_lengthLow {view : RxView} (v : Byte) (hps : view.ps = .len) (hlhv : view.lhv = true) :
    logicalInstr view v = .rxLenLo v := by
  simp [logicalInstr, hps, hlhv]

theorem logicalInstr_dataByte {view : RxView} (v : Byte) (hps : view.ps = .payload) :
    logicalInstr view v = .rxData v := by
  simp [logicalInstr, hps]

theorem logicalInstr_checksumByte {view : RxView} (v : Byte) (hps : view.ps = .csum) :
    logicalInstr view v = .rxCsum v := by
  simp [logicalInstr, hps]

/-- The operation map as the chain of its tests (R88). -/
theorem decodeRaw_eq_ite (view : RxView) (b : Byte) :
    decodeRaw view b =
      if b = Params.start then .rxStart
      else if view.ps = .idle then .rxDrop b
      else if view.escp = false ∧ b = Params.esc then .rxEsc
      else logicalInstr view (logicalByte view.escp b) := by
  rcases Rx.decodeRaw_spec view b with ⟨rfl, hd⟩ | ⟨hb, hps, hd⟩ | ⟨hb, hps, hescp, hesc, hd⟩ | hrow
  · rw [hd, if_pos rfl]
  · rw [hd, if_neg hb, if_pos hps]
  · rw [hd, if_neg hb, if_neg hps, if_pos ⟨hescp, hesc⟩]
  · rcases hrow with ⟨hb, hps, hlhv, hd⟩ | ⟨hb, hps, hlhv, hd⟩ | ⟨hb, hps, hd⟩ | ⟨hb, hps, hd⟩ <;>
      obtain ⟨hstart, hesc⟩ := (givesLogical_iff _ _).1 hb <;>
      rw [hd, if_neg hstart, if_neg (by simp [hps]), if_neg hesc]
    · rw [logicalInstr_lengthHigh _ hps hlhv]
    · rw [logicalInstr_lengthLow _ hps hlhv]
    · rw [logicalInstr_dataByte _ hps]
    · rw [logicalInstr_checksumByte _ hps]

theorem decodeRaw_drop {view : RxView} {b : Byte} (hb : b ≠ Params.start) (hps : view.ps = .idle) :
    decodeRaw view b = .rxDrop b := by
  rw [decodeRaw_eq_ite, if_neg hb, if_pos hps]

theorem decodeRaw_esc {view : RxView} (hps : view.ps ≠ .idle) (hescp : view.escp = false) :
    decodeRaw view Params.esc = .rxEsc := by
  rw [decodeRaw_eq_ite, if_neg (by decide), if_neg hps, if_pos ⟨hescp, rfl⟩]

/-- The raw byte that a logical byte arrives as selects the operation that takes the logical byte. -/
theorem decodeRaw_logicalByte {view : RxView} {v : Byte} (hps : view.ps ≠ .idle)
    (hb : givesLogical view (logicalByte view.escp v) = true) :
    decodeRaw view (logicalByte view.escp v) = logicalInstr view v := by
  obtain ⟨hstart, hesc⟩ := (givesLogical_iff _ _).1 hb
  rw [decodeRaw_eq_ite, if_neg hstart, if_neg hps, if_neg hesc, logicalByte_logicalByte]

theorem decodeLogical_pass {o : Byte} (h : Params.reserved o = false) : decodeLogical o = .escBytePass o := by
  obtain ⟨hstart, hesc, hxon, hxoff⟩ := (reserved_eq_false_iff o).1 h
  rw [decodeLogical, if_neg hstart, if_neg hesc, if_neg hxon, if_neg hxoff]

/-- Settles O11: running the selected case is feeding the byte; the operation map is the chain of its tests. -/
theorem feedRunsTheSelectedCase : Obligations.FeedRunsTheSelectedCase := by
  refine ⟨fun s b => ?_, decodeRaw_eq_ite⟩
  obtain ⟨t, ht⟩ := exec_next (.feed b) s
  exact ⟨t, ht, (exec_decodeRaw s b).trans ht⟩

/-- Settles O56: the rows that a raw byte selects go through the operation map, the logical bytes and the commands
through their own decoders; a call is handed over as it is. -/
theorem decodeOfEncodeIsIdentity : Obligations.DecodeOfEncodeIsIdentity := by
  intro view i hwf hsel
  cases i with
  | rxStart => rfl
  | rxDrop b => exact congrArg Except.ok (decodeRaw_drop (bne_iff_ne.1 hwf) (beq_iff_eq.1 hsel))
  | rxEsc =>
    simp only [Instr.selectable, Bool.and_eq_true, bne_iff_ne, Bool.not_eq_true'] at hsel
    obtain ⟨hps, hescp⟩ := hsel
    exact congrArg Except.ok (decodeRaw_esc hps hescp)
  | rxLenHi v =>
    simp only [Instr.selectable, Bool.and_eq_true, beq_iff_eq, Bool.not_eq_true'] at hsel
    obtain ⟨⟨hps, hlhv⟩, hb⟩ := hsel
    exact congrArg Except.ok ((decodeRaw_logicalByte (by simp [hps]) hb).trans (logicalInstr_lengthHigh v hps hlhv))
  | rxLenLo v =>
    simp only [Instr.selectable, Bool.and_eq_true, beq_iff_eq] at hsel
    obtain ⟨⟨hps, hlhv⟩, hb⟩ := hsel
    exact congrArg Except.ok ((decodeRaw_logicalByte (by simp [hps]) hb).trans (logicalInstr_lengthLow v hps hlhv))
  | rxData v =>
    simp only [Instr.selectable, Bool.and_eq_true, beq_iff_eq] at hsel
    obtain ⟨hps, hb⟩ := hsel
    exact congrArg Except.ok ((decodeRaw_logicalByte (by simp [hps]) hb).trans (logicalInstr_dataByte v hps))
  | rxCsum v =>
    simp only [Instr.selectable, Bool.and_eq_true, beq_iff_eq] at hsel
    obtain ⟨hps, hb⟩ := hsel
    exact congrArg Except.ok ((decodeRaw_logicalByte (by simp [hps]) hb).trans (logicalInstr_checksumByte v hps))
  | escByte7E => rfl
  | escByte7D => rfl
  | escByte11 => rfl
  | escByte13 => rfl
  | escBytePass o => exact congrArg Except.ok (decodeLogical_pass ((Bool.not_eq_true' _).mp hwf))
  | txTransmit a d => exact decodeCommand_transmit a d
  | txRemoteAt a c q => exact decodeCommand_remoteAt a c q
  | escape bs => rfl
  | unescStep e b => rfl
  | unescape e bs => rfl
  | cksGen d => rfl
  | cksChk d c => rfl
  | feed b => rfl
  | feedChunk bs => rfl
  | txFrame p => rfl
  | reset => rfl

/-- What a raw byte selects is well formed, allowed, and encodes to the byte (R88). -/
theorem decodeRaw_encode (view : RxView) (b : Byte) :
    (decodeRaw view b).wellFormed = true ∧ (decodeRaw view b).selectable view = true ∧
      encode view (decodeRaw view b) = .raw b := by
  rcases Rx.decodeRaw_spec view b with ⟨rfl, hd⟩ | ⟨hb, hps, hd⟩ | ⟨-, hps, hescp, rfl, hd⟩ | hrow
  · rw [hd]
    exact ⟨rfl, rfl, rfl⟩
  · rw [hd]
    exact ⟨bne_iff_ne.2 hb, beq_iff_eq.2 hps, rfl⟩
  · rw [hd]
    exact ⟨rfl, by simp [Instr.selectable, hps, hescp], rfl⟩
  · have hback := congrArg HostMove.raw (logicalByte_logicalByte view.escp b)
    rcases hrow with ⟨hb, hps, hlhv, hd⟩ | ⟨hb, hps, hlhv, hd⟩ | ⟨hb, hps, hd⟩ | ⟨hb, hps, hd⟩ <;> rw [hd]
    · exact ⟨rfl, by simp [Instr.selectable, hps, hlhv, hb], hback⟩
    · exact ⟨rfl, by simp [Instr.selectable, hps, hlhv, hb], hback⟩
    · exact ⟨rfl, by simp [Instr.selectable, hps, hb], hback⟩
    · exact ⟨rfl, by simp [Instr.selectable, hps, hb], hback⟩

/-- The row that a logical byte selects is well formed, allowed, and encodes to the byte (R83). -/
theorem decodeLogical_encode (view : RxView) (o : Byte) :
    (decodeLogical o).wellFormed = true ∧ (decodeLogical o).selectable view = true ∧
      encode view (decodeLogical o) = .logical o := by
  unfold decodeLogical
  split_ifs with hstart hesc hxon hxoff
  · exact ⟨rfl, rfl, congrArg _ hstart.symm⟩
  · exact ⟨rfl, rfl, congrArg _ hesc.symm⟩
  · exact ⟨rfl, rfl, congrArg _ hxon.symm⟩
  · exact ⟨rfl, rfl, congrArg _ hxoff.symm⟩
  · have hplain := (reserved_eq_false_iff o).2 ⟨hstart, hesc, hxon, hxoff⟩
    exact ⟨(Bool.not_eq_true' _).mpr hplain, rfl, rfl⟩

/-- Settles O57: by the kind of the move. -/
theorem encodeOfDecodeIsIdentity : Obligations.EncodeOfDecodeIsIdentity := by
  intro view m i h
  cases m with
  | raw b =>
    obtain rfl := Except.ok.inj h
    exact decodeRaw_encode view b
  | logical o =>
    obtain rfl := Except.ok.inj h
    exact decodeLogical_encode view o
  | command k fs =>
    rcases decodeCommand_spec k fs with ⟨-, e, he⟩ | ⟨rfl, a, d, rfl⟩ | ⟨rfl, a, c, q, rfl⟩
    · cases he.symm.trans h
    · obtain rfl := Except.ok.inj h
      exact ⟨rfl, rfl, rfl⟩
    · obtain rfl := Except.ok.inj h
      exact ⟨rfl, rfl, rfl⟩
  | call c =>
    obtain rfl := Except.ok.inj h
    cases c <;> exact ⟨rfl, rfl, rfl⟩

/-- Settles O58: the selected operation is one, and decoding finds no other. -/
theorem rawByteSelectsExactlyOne : Obligations.RawByteSelectsExactlyOne := by
  intro view b
  refine ⟨decodeRaw view b, decodeRaw_encode view b, ?_⟩
  rintro i ⟨hwf, hsel, hencode⟩
  have hdecode := decodeOfEncodeIsIdentity view i hwf hsel
  rw [hencode] at hdecode
  exact (Except.ok.inj hdecode).symm

/-- Settles O59: each word is closed. -/
theorem sampleWordsDecode : Obligations.SampleWordsDecode := by
  unfold Obligations.SampleWordsDecode
  decide

/-- Settles O60: each code is the value of its function. -/
theorem numericCodes : Obligations.NumericCodes :=
  ⟨rfl, rfl, rfl, rfl, rfl, fun _ => rfl, fun _ => rfl, rfl, rfl, rfl, rfl, rfl, fun _ _ _ => ⟨_, rfl⟩,
    fun _ _ _ _ => ⟨_, rfl⟩⟩

end Sys2Proof.Machine

/-! The receive operations (42_rx_synchronizer.md section 2), each as one equation on the state. -/

namespace Sys2Proof.Machine

theorem exec_rxStart (s : State) : exec .rxStart s = .next (s.emitRx s.rx.startMarker) := rfl

theorem exec_rxData (v : Byte) (s : State) : exec (.rxData v) s = .next (s.emitRx (s.rx.dataByte v)) := rfl

theorem exec_rxCsum (v : Byte) (s : State) : exec (.rxCsum v) s = .next (s.emitRx (s.rx.checksumByte v)) := rfl

theorem exec_rxLenLo (v : Byte) (s : State) :
    exec (.rxLenLo v) s = .next (s.emitRx (s.rx.lengthLow s.cfg.maxLen v)) := rfl

/-- Settles O4: a frame in progress is what `PS` other than `IDLE` means. -/
theorem rxStartBeginsFrame : Obligations.RxStartBeginsFrame := by
  intro s
  rw [exec_rxStart, Rx.startMarker_eq]
  rfl

/-- Settles O5: RX_DROP gives back the registers. -/
theorem rxDropChangesNothing : Obligations.RxDropChangesNothing := fun _ _ => rfl

/-- A raw 0x7D in a frame with an escape pending is the logical byte 0x5D (D6). -/
theorem decodeRaw_esc_pending {view : RxView} (hps : view.ps ≠ .idle) (hescp : view.escp = true) :
    decodeRaw view 0x7D = logicalInstr view 0x5D := by
  have hb : givesLogical view (logicalByte view.escp 0x5D) = true := by
    rw [hescp, givesLogical_iff, hescp]
    decide
  have hraw : logicalByte view.escp 0x5D = 0x7D := by
    rw [hescp]
    rfl
  have hrow := decodeRaw_logicalByte hps hb
  rwa [hraw] at hrow

theorem logicalInstr_cases (view : RxView) (v : Byte) :
    logicalInstr view v = .rxLenHi v ∨ logicalInstr view v = .rxLenLo v ∨ logicalInstr view v = .rxData v ∨
      logicalInstr view v = .rxCsum v := by
  unfold logicalInstr
  split_ifs <;> simp

/-- Settles O6: the third row of the operation map is the only one that gives RX_ESC; with an escape pending a raw
0x7D falls to the rows for a logical byte. -/
theorem rxEscSetsEscapePending : Obligations.RxEscSetsEscapePending := by
  refine ⟨fun s => rfl, fun view hps hescp => ?selects, fun view b h => ?only, fun view hps hescp => ?second⟩
  case selects => exact congrArg Except.ok (decodeRaw_esc hps hescp)
  case only =>
    replace h := Except.ok.inj h
    rcases Rx.decodeRaw_spec view b with ⟨-, hd⟩ | ⟨-, -, hd⟩ | ⟨-, hps, hescp, hesc, -⟩ | hrow
    · cases hd.symm.trans h
    · cases hd.symm.trans h
    · exact ⟨hesc, hps, hescp⟩
    · rcases hrow with ⟨-, -, -, hd⟩ | ⟨-, -, -, hd⟩ | ⟨-, -, hd⟩ | ⟨-, -, hd⟩ <;> cases hd.symm.trans h
  case second =>
    exact ⟨_, congrArg Except.ok (decodeRaw_esc_pending hps hescp), logicalInstr_cases view 0x5D⟩

/-- Settles O7: the new length is the byte in front of the low byte. -/
theorem rxLenHiWritesHighByte : Obligations.RxLenHiWritesHighByte :=
  fun s v => ⟨lenWithHigh s.rx.len v, lenWithHigh_toNat s.rx.len v, rfl⟩

/-- Settles O8: the three outcomes of the second length byte. -/
theorem rxLenLoValidatesLength : Obligations.RxLenLoValidatesLength := by
  intro s v n hn
  rw [exec_rxLenLo, hn]
  refine ⟨fun hover => ?overrun, fun hzero => ?zero, fun hne hle => ?legal⟩
  case overrun =>
    rw [Rx.lengthLow_overrun hover]
    rfl
  case zero =>
    rw [Rx.lengthLow_zero _ hzero]
    rfl
  case legal =>
    refine ⟨lenWithLow s.rx.len v, lenWithLow_toNat s.rx.len v, ?_⟩
    rw [Rx.lengthLow_legal hne hle]
    rfl

/-- An index that is not the appended one reads as before. -/
theorem byteAt_append_of_ne (m : Memory) (v : Byte) {k : Nat} (h : k ≠ m.length) :
    (m.append v).byteAt k = m.byteAt k := by
  rcases Nat.lt_or_gt_of_ne h with hlt | hgt
  · exact Memory.byteAt_append_old m v hlt
  · rw [Memory.byteAt_beyond m (Nat.le_of_lt hgt), Memory.byteAt_beyond]
    rw [Memory.append_length]
    omega

/-- Settles O9: the effect is that of `Rx.dataByte`; the buffer stays within `MAX_LEN` since the invariants hold of the
next registers too. -/
theorem rxDataCollectsByte : Obligations.RxDataCollectsByte := by
  refine ⟨fun s v => ?effect, fun s t v h => ?buffer, fun s t v hinv hps h => ?room⟩
  case effect =>
    refine ⟨sumStep s.rx.sum v, s.rx.rem - 1, sumStep_toNat _ _, rem_pred_toNat, ?_⟩
    rw [exec_rxData, Rx.dataByte_eq]
    rfl
  case buffer =>
    rw [exec_rxData, Host.Outcome.next.injEq] at h
    rw [← h]
    exact ⟨Memory.byteAt_append_new s.rx.buf v, fun k hk => byteAt_append_of_ne s.rx.buf v hk⟩
  case room =>
    rw [exec_rxData, Host.Outcome.next.injEq] at h
    obtain ⟨-, -, -, -, hroom⟩ := Rx.dataByte_inv v hps hinv
    obtain ⟨-, hpos, -⟩ := (Rx.inv_iff_of_payload hps).1 hinv
    rw [← h]
    exact ⟨hpos, hroom⟩

/-- Settles O10: the buffer is delivered or the mismatch reported, by the check of the running sum. -/
theorem rxCsumDeliversOrRejects : Obligations.RxCsumDeliversOrRejects := by
  refine ⟨fun s v => ?_, fun s v hinv hps => Rx.Inv.sum_check_iff hinv hps v⟩
  rw [exec_rxCsum, Rx.checksumByte_eq]
  rfl

/-- Feeding a byte is running the operation it selects (R150). -/
theorem exec_feed_eq_of_decodeRaw {s : State} {b : Byte} {i : Instr} (h : decodeRaw s.rx.view b = i) :
    exec (.feed b) s = exec i s := by
  rw [← h, exec_decodeRaw]

/-- Settles O48: each reading of a byte is a row of the operation map. -/
theorem readingsOfAByteHavePriority : Obligations.ReadingsOfAByteHavePriority := by
  have hpending : ∀ s : State, s.rx.ps ≠ .idle → s.rx.escp = true →
      exec (.feed 0x7D) s = exec (logicalInstr s.rx.view 0x5D) s :=
    fun s hps hescp => exec_feed_eq_of_decodeRaw (decodeRaw_esc_pending hps hescp)
  refine ⟨fun view => rfl, fun s hps => ?idle, fun s hps hescp => ?payload, fun s hps hescp => ?csum,
    fun s hps hlhv hescp => ?high, fun s hps hlhv hescp => ?low⟩
  case idle =>
    rw [exec_feed_eq_of_decodeRaw (decodeRaw_drop (by decide) hps)]
    rfl
  case payload => rw [hpending s (by simp [hps]) hescp, logicalInstr_dataByte _ hps]
  case csum => rw [hpending s (by simp [hps]) hescp, logicalInstr_checksumByte _ hps]
  case high => rw [hpending s (by simp [hps]) hescp, logicalInstr_lengthHigh _ hps hlhv]
  case low => rw [hpending s (by simp [hps]) hescp, logicalInstr_lengthLow _ hps hlhv]

end Sys2Proof.Machine

/-! Rules of the whole receiver (42_rx_synchronizer.md R172, R174, R190, R192), read off what FEED can do. -/

namespace Sys2Proof.Machine

/-- The registers and the output of a FEED that answers `t`. -/
theorem exec_feed_next {s t : State} {b : Byte} (h : exec (.feed b) s = .next t) :
    t.rx = (s.rx.feed s.cfg.maxLen b).1 ∧ t.out = .rx (s.rx.feed s.cfg.maxLen b).2 := by
  rw [exec_feed, Host.Outcome.next.injEq] at h
  rw [← h]
  exact ⟨rfl, rfl⟩

/-- Settles O46: each result stands with the registers it leaves. -/
theorem stateAfterEachResult : Obligations.StateAfterEachResult := by
  intro s t b o h ho
  obtain ⟨hrx, hout⟩ := exec_feed_next h
  obtain rfl := StepOut.rx.inj (ho.symm.trans hout)
  rw [hrx]
  rcases Rx.feed_results s.cfg.maxLen b s.rx with
    ⟨heq, -⟩ | ⟨-, -, heq⟩ | ⟨-, -, -, -, heq⟩ | ⟨-, -, -, heq⟩ | ⟨-, -, -, heq⟩ <;> simp [heq]

/-- Settles O47: each result stands with what leads to it. -/
theorem resultsHaveOneCause : Obligations.ResultsHaveOneCause := by
  intro s t b o h ho
  obtain ⟨-, hout⟩ := exec_feed_next h
  obtain rfl := StepOut.rx.inj (ho.symm.trans hout)
  rcases Rx.feed_results s.cfg.maxLen b s.rx with
    ⟨heq, hother⟩ | ⟨rfl, hps, heq⟩ | ⟨hb, hps, hlhv, hover, heq⟩ | ⟨hb, hps, hsum, heq⟩ | ⟨hb, hps, -, heq⟩ <;>
    rw [heq]
  · exact ⟨iff_of_false nofun hother, nofun, nofun, nofun⟩
  · exact ⟨iff_of_true rfl ⟨rfl, hps⟩, nofun, nofun, nofun⟩
  · have hstart := ((givesLogical_iff _ _).1 hb).1
    exact ⟨iff_of_false nofun fun h => hstart h.1, fun _ => ⟨hps, hlhv, hover⟩, nofun, nofun⟩
  · have hstart := ((givesLogical_iff _ _).1 hb).1
    exact ⟨iff_of_false nofun fun h => hstart h.1, nofun, fun _ => ⟨hps, hsum⟩, nofun⟩
  · have hstart := ((givesLogical_iff _ _).1 hb).1
    exact ⟨iff_of_false nofun fun h => hstart h.1, nofun, nofun, fun f hf => ⟨hps, (FrameResult.complete.inj hf).symm⟩⟩

/-- Settles O50: only the checksum delivers, and there the invariants say what the buffer is. -/
theorem deliveredFrameHasDeclaredLength : Obligations.DeliveredFrameHasDeclaredLength := by
  intro s t b f w hinv h ho
  obtain ⟨-, hout⟩ := exec_feed_next h
  have hres := congrArg RxOut.res (StepOut.rx.inj (hout.symm.trans ho))
  obtain ⟨hlen, hle, hcks⟩ := Rx.Inv.complete hinv hres
  exact ⟨hlen, hlen.trans_le hle, hcks⟩

/-- Settles O45: a logical byte leads on from `PAYLOAD` to `PAYLOAD` or `CSUM`, and from `CSUM` to `IDLE`; the other
readings of a byte lead nowhere but by `START`. -/
theorem noShortcutTransitions : Obligations.NoShortcutTransitions := by
  intro s t b h
  obtain ⟨hrx, -⟩ := exec_feed_next h
  rw [hrx]
  rcases Rx.feed_parts s.cfg.maxLen b s.rx with ⟨rfl, heq⟩ | ⟨-, hidle, heq⟩ | ⟨-, hps, -, heq⟩ | ⟨-, hps, heq⟩ <;>
    rw [heq]
  · rw [Rx.startMarker_eq]
    exact ⟨fun _ => .inr ⟨rfl, rfl⟩, fun _ _ => rfl, fun _ _ => rfl, fun _ => ParserState.noConfusion⟩
  · simp [Rx.drop, hidle]
  · have hsame : s.rx.escapeMarker.1.ps = s.rx.ps := rfl
    rw [hsame]
    refine ⟨fun hidle => absurd hidle hps, fun hdata hlen => ?_, fun hcsum hlen => ?_, fun hcsum hdata => ?_⟩
    · cases hdata.symm.trans hlen
    · cases hcsum.symm.trans hlen
    · cases hcsum.symm.trans hdata
  · rcases Rx.takeLogical_parts s.cfg.maxLen (logicalByte s.rx.escp b) hps with
      ⟨hlen, -⟩ | ⟨hlen, -⟩ | ⟨hdata, htake⟩ | ⟨hcsum, htake⟩
    · simp [hlen]
    · simp [hlen]
    · rw [htake, Rx.dataByte_eq]
      by_cases hlast : s.rx.rem.toNat = 1 <;> simp [hdata, hlast]
    · simp [htake, Rx.checksumByte_eq, hcsum]

/-- Frame data goes on exactly while two bytes or more are left (42 R166). -/
theorem Rx.dataByte_ps (v : Byte) {r : Rx} (hps : r.ps = .payload) (hpos : 1 ≤ r.rem.toNat) :
    (r.dataByte v).1.ps = if 2 ≤ r.rem.toNat then .payload else .csum := by
  have hnext : (r.dataByte v).1.ps = if r.rem.toNat = 1 then .csum else r.ps := by rw [Rx.dataByte_eq]
  rw [hnext, hps]
  rcases Nat.lt_or_eq_of_le hpos with hmore | hlast
  · rw [if_neg (Nat.ne_of_gt hmore), if_pos (Nat.succ_le_of_lt hmore)]
  · rw [if_pos hlast.symm, if_neg (by omega)]

/-- Settles O44: the rows in the order in which FEED tests them. -/
theorem parserTransitionTable : Obligations.ParserTransitionTable := by
  intro s b v n hinv hv hn
  refine ⟨_, _, exec_feed b s, State.emitRx_out _ s, ?_⟩
  rw [State.emitRx_rx]
  rw [← logicalByte_eq_ite] at hv
  rcases Rx.feed_parts s.cfg.maxLen b s.rx with
    ⟨rfl, heq⟩ | ⟨hstart, hps, heq⟩ | ⟨rfl, hps, hescp, heq⟩ | ⟨hb, hps, heq⟩ <;>
    rw [heq]
  · rw [Rx.startMarker_eq]
    exact ⟨rfl, rfl⟩
  · rw [if_neg (show b ≠ 0x7E from hstart), if_pos hps]
    exact ⟨rfl, rfl⟩
  · rw [if_neg (by decide), if_neg hps, if_pos ⟨hescp, rfl⟩]
    exact ⟨rfl, rfl⟩
  obtain ⟨hstart, hesc⟩ := (givesLogical_iff _ _).1 hb
  rw [if_neg (show b ≠ 0x7E from hstart), if_neg hps, if_neg (show ¬(s.rx.escp = false ∧ b = 0x7D) from hesc), ← hv]
  rcases Rx.takeLogical_parts s.cfg.maxLen v hps with
    ⟨hlen, hlhv, htake⟩ | ⟨hlen, hlhv, htake⟩ | ⟨hdata, htake⟩ | ⟨hcsum, htake⟩ <;> rw [htake]
  · obtain ⟨-, -, -, -, hzero⟩ := (Rx.inv_iff_of_len hlen).1 hinv
    rw [if_pos ⟨hlen, hlhv⟩]
    refine ⟨hlen, rfl, ?_, rfl⟩
    rw [Rx.lengthHigh, lenWithHigh_toNat, hzero hlhv]
    simp
  · obtain ⟨hrem, hsum, hbuf, -⟩ := (Rx.inv_iff_of_len hlen).1 hinv
    have hhigh : ¬(s.rx.ps = .len ∧ s.rx.lhv = false) := by simp [hlhv]
    rw [if_neg hhigh, if_pos hlen]
    rcases Rx.lengthLow_parts s.cfg.maxLen v s.rx with ⟨hover, hlow⟩ | ⟨hzero, hlow⟩ | ⟨hne, hle, hlow⟩ <;>
      rw [hlow]
    · rw [if_pos (hn ▸ hover)]
      exact ⟨rfl, rfl⟩
    · rw [if_neg (by omega), if_pos (hn.trans hzero), hsum, hbuf]
      exact ⟨rfl, rfl⟩
    · rw [if_neg (by omega), if_neg (by omega)]
      exact ⟨rfl, (lenWithLow_toNat _ v).trans hn.symm, (lenWithLow_toNat _ v).trans hn.symm, hbuf, rfl⟩
  · obtain ⟨-, hpos, -⟩ := (Rx.inv_iff_of_payload hdata).1 hinv
    rw [if_neg (by simp [hdata]), if_neg (by simp [hdata]), if_pos hdata]
    exact ⟨Rx.dataByte_ps v hdata hpos, rem_pred_toNat hpos, rfl, rfl, rfl⟩
  · rw [if_neg (by simp [hcsum]), if_neg (by simp [hcsum]), if_neg (by simp [hcsum]), Rx.checksumByte_eq]
    exact ⟨rfl, rfl⟩

end Sys2Proof.Machine

/-! Reset and the step (10_state.md R33, R37, R38; 20_memory.md R51, R53; 60_exceptions.md R260). -/

namespace Sys2Proof.Machine

/-- Settles O1: the fields of `State.resetWith`. -/
theorem resetStateIsCleanIdle : Obligations.ResetStateIsCleanIdle :=
  ⟨fun _ => ⟨rfl, rfl, rfl, rfl, rfl, rfl, rfl, rfl, rfl, rfl, rfl⟩, rfl⟩

/-- Settles O3: clean Idle written out. -/
theorem resetClearsReceiverSilently : Obligations.ResetClearsReceiverSilently := exec_reset

/-- Settles O34: with no move to take the step is quiet. -/
theorem stepWithoutMoveIsQuiet : Obligations.StepWithoutMoveIsQuiet := by
  intro s h
  rw [step, State.fetch_nil h]
  rfl

/-- Settles O33: the step at a move that decodes. -/
theorem stepRunsDecodedMove : Obligations.StepRunsDecodedMove := by
  intro s m rest i h hd
  simp only [step, State.fetch_cons h, hd]

/-- The step at a move that does not decode. -/
theorem step_of_decode_error {s : State} {m : HostMove} {rest : List HostMove} {e : DecodeError}
    (h : s.pending = m :: rest) (hd : decode s.rx.view m = .error e) :
    step s = .refused (.illSizedCommand e) := by
  simp only [step, State.fetch_cons h, hd]

/-- Which moves are no operation: a descriptor whose fixed fields are too short, and nothing else. -/
theorem decode_error_iff (view : RxView) (m : HostMove) :
    (∃ e, decode view m = .error e) ↔
      ∃ k fs, m = .command k fs ∧ (fs.length < 8 ∨ (k = 1 ∧ fs.length < 10)) := by
  constructor
  · rintro ⟨e, he⟩
    cases m with
    | command k fs =>
      rcases decodeCommand_spec k fs with ⟨hshort, -⟩ | ⟨rfl, a, d, rfl⟩ | ⟨rfl, a, c, q, rfl⟩
      · exact ⟨k, fs, rfl, hshort⟩
      · cases he
      · cases he
    | raw b => cases he
    | logical o => cases he
    | call c => cases he
  · rintro ⟨k, fs, rfl, hshort⟩
    rcases decodeCommand_spec k fs with ⟨-, he⟩ | ⟨rfl, a, d, rfl⟩ | ⟨rfl, a, c, q, rfl⟩
    · exact he
    · simp at hshort
    · simp at hshort
      omega

/-- A step is refused exactly at a move that is no operation. -/
theorem step_refused_iff (s : State) :
    (∃ r, step s = .refused r) ↔ ∃ m rest, s.pending = m :: rest ∧ ∃ e, decode s.rx.view m = .error e := by
  rcases hp : s.pending with _ | ⟨m, rest⟩
  · simp [stepWithoutMoveIsQuiet s hp]
  · rcases hd : decode s.rx.view m with e | i
    · simp [step_of_decode_error hp hd, hd]
    · obtain ⟨t, ht⟩ := exec_next i { s with pending := rest }
      simp [stepRunsDecodedMove s m rest i hp hd, hd, ht]

/-- Settles O35: there is no fault to answer, and a step is refused where the decoder is. -/
theorem stepStopsOnlyOnIllSizedCommand : Obligations.StepStopsOnlyOnIllSizedCommand := by
  refine ⟨fun _ => nofun, fun s => (step_refused_iff s).trans ⟨?_, ?_⟩⟩
  · rintro ⟨m, rest, hp, herr⟩
    obtain ⟨k, fs, rfl, hshort⟩ := (decode_error_iff _ _).1 herr
    exact ⟨k, fs, rest, hp, hshort⟩
  · rintro ⟨k, fs, rest, hp, hshort⟩
    exact ⟨_, rest, hp, (decode_error_iff _ _).2 ⟨k, fs, rfl, hshort⟩⟩

/-- A step that takes a raw byte feeds it (R88, R150). -/
theorem step_raw {s : State} {b : Byte} {rest : List HostMove} (h : s.pending = .raw b :: rest) :
    step s = .next { s with
      rx := (s.rx.feed s.cfg.maxLen b).1
      out := .rx (s.rx.feed s.cfg.maxLen b).2
      pending := rest } := by
  rw [stepRunsDecodedMove s (.raw b) rest _ h rfl]
  exact exec_decodeRaw { s with pending := rest } b

/-- Settles O38: a raw byte is fed; no operation writes the host's moves. -/
theorem rawByteIsConsumedOnce : Obligations.RawByteIsConsumedOnce := by
  refine ⟨fun s b => ⟨(s.rx.feed s.cfg.maxLen b).1, (s.rx.feed s.cfg.maxLen b).2, fun rest => ?fed⟩,
    fun s t m rest hp h => ?_⟩
  case fed => exact step_raw (s := { s with pending := .raw b :: rest }) rfl
  rcases step_next h with ⟨hnil, -⟩ | ⟨m', rest', i, hp', -, hx⟩
  · cases hnil.symm.trans hp
  · obtain ⟨-, rfl⟩ := List.cons.inj (hp'.symm.trans hp)
    exact (exec_cfg_pending hx).2

/-- An operation appends the frame it hands over to `OUT`, and otherwise leaves `OUT` alone (20_memory.md R53). -/
theorem exec_outStream {i : Instr} {s t : State} (h : exec i s = .next t) :
    (∃ w, t.out = .tx .ok w ∧ t.outStream = s.outStream ++ w) ∨
      ((∀ w, t.out ≠ .tx .ok w) ∧ t.outStream = s.outStream) := by
  by_cases hok : ∃ w, t.out = .tx .ok w
  · obtain ⟨w, hw⟩ := hok
    obtain ⟨-, -, -, rfl⟩ := exec_tx_ok h hw
    exact .inl ⟨w, rfl, rfl⟩
  have hnone : ∀ w, t.out ≠ .tx .ok w := fun w hw => hok ⟨w, hw⟩
  refine .inr ⟨hnone, ?_⟩
  obtain ⟨hreceive, -, hfunction, hreset, hkind⟩ := operationsWriteOnlyTheirOwn i s t h
  rcases hkind with hi | hi | hi | hi
  · rw [hreceive hi]
  · rw [exec_of_isTransmit hi, Host.Outcome.next.injEq] at h
    subst h
    rcases txFrame_spec s.cfg (sentData s.cfg i) with ⟨-, heq⟩ | ⟨-, heq⟩
    · rw [heq] at hnone
      exact absurd rfl (hnone _)
    · rw [heq, State.emitFrame_refused]
  · rw [hfunction hi]
  · rw [hreset hi]

/-- Settles O39: a step is quiet, or runs one operation. -/
theorem outStreamGrowsByWholeFrames : Obligations.OutStreamGrowsByWholeFrames := by
  intro s t h
  rcases step_next h with ⟨-, rfl⟩ | ⟨m, rest, i, -, -, hx⟩
  · exact .inr ⟨nofun, rfl⟩
  · have hout := exec_outStream hx
    exact hout

/-- Settles O41: the equations of the kinds name what each result depends on. -/
theorem agentsDoNotInterfere : Obligations.AgentsDoNotInterfere := by
  refine ⟨fun i s s' t t' hi hcfg h h' => ?_, fun i s s' t t' hi hcfg hrx h h' => ?receive⟩
  case receive =>
    rw [exec_of_isReceive hi, Host.Outcome.next.injEq] at h h'
    rw [← h, ← h', hcfg, hrx]
    exact ⟨rfl, rfl⟩
  rcases hi with hi | hi
  case inl =>
    rw [exec_of_isTransmit hi, Host.Outcome.next.injEq] at h h'
    rw [← h, ← h', hcfg]
    exact State.emitFrame_out_congr _ s s'
  case inr =>
    rw [exec_of_isFunction hi, Host.Outcome.next.injEq] at h h'
    rw [← h, ← h']
    rfl

/-- What a transmit operation appends to `OUT` depends on what is sent alone. -/
theorem State.emitFrame_outStream_congr (o : TxStatus × List Byte) {s s' : State} (h : s.outStream = s'.outStream) :
    (s.emitFrame o).outStream = (s'.emitFrame o).outStream := by
  rcases o with ⟨_ | _, w⟩
  · exact congrArg (· ++ w) h
  · exact h

/-- Settles O42: what each agent reads is what the other leaves alone. -/
theorem interleavingsAgree : Obligations.InterleavingsAgree := by
  intro i j s a b c d hi hj ha hb hc hd
  rw [exec_of_isReceive hi, Host.Outcome.next.injEq] at ha hd
  rw [exec_of_isTransmit hj, Host.Outcome.next.injEq] at hb hc
  subst ha hc
  rw [← hb, ← hd, State.emitFrame_rx, State.emitFrame_rx, State.emitFrame_cfg]
  exact ⟨rfl, State.emitFrame_outStream_congr _ rfl, State.emitFrame_out_congr _ _ _, rfl⟩

theorem run_succ_of_step (M : Host.Core) {n : Nat} {s t : M.State} (h : M.step s = .next t) :
    Host.Core.run M (n + 1) s = Host.Core.run M n t := by
  rw [Host.Core.run, h]

/-- Settles O43: each step feeds one byte to the registers that the step before left, by induction on the bytes. -/
theorem rawStepsRunLikeOneChunk : Obligations.RawStepsRunLikeOneChunk := by
  intro s bs rest hp
  induction bs generalizing s with
  | nil =>
    obtain rfl : s.pending = rest := hp
    exact ⟨s, _, rfl, exec_feedChunk [] _, rfl⟩
  | cons b bs ih =>
    obtain ⟨t, c, ht, hc, heq⟩ := ih { s with
      rx := (s.rx.feed s.cfg.maxLen b).1
      out := .rx (s.rx.feed s.cfg.maxLen b).2
      pending := bs.map HostMove.raw ++ rest } rfl
    refine ⟨t, _, (run_succ_of_step core (step_raw hp)).trans ht, exec_feedChunk (b :: bs) _, heq.trans ?_⟩
    rw [exec_feedChunk, Host.Outcome.next.injEq] at hc
    rw [← hc]
    rfl

end Sys2Proof.Machine
